-- ==== Sys2Proof/Word.lean ====
section
/-! DEFINITION. The word types of the CORE: an 8-bit byte and a 16-bit address (spec/00_scope.md R8, R11). -/

namespace Sys2Proof

/-- A register or a memory byte: an unsigned bit vector of 8 bits (R8, R11). -/
abbrev Byte := BitVec 8

/-- An address, and the program counter: an unsigned bit vector of 16 bits (R8, R11). -/
abbrev Addr := BitVec 16

end Sys2Proof
end

