-- ==== Sys2Proof/Config.lean ====
section
/-! DEFINITION. The named parameters of spec/00_scope.md R9 that are fixed for this hardware, and the one value the
spec leaves free. The parameters OPCODE_ROM and CYCLES are the table in Sys2Proof/Decode.lean. -/

namespace Sys2Proof

/-- `HAS_EOR`: whether the eight EOR rows are in the opcode ROM (30_encoding.md R53). UNVERIFIED: the spec's own
decision D2, log 8. -/
def Config.hasEor : Bool := true

/-- `P_BIT4_RESET` (10_state.md R18): what reset writes into the reserved bit 4 of P. Log 9. -/
def Config.pBit4Reset : Bool := false

/-- `P_BIT5_RESET` (10_state.md R18): what reset writes into the reserved bit 5 of P. Log 9. -/
def Config.pBit5Reset : Bool := true

/-- `PROGRAM_ORIGIN` (R9): where `load` puts a program image. -/
def Config.programOrigin : Addr := 0x8000

/-- `RESET_VECTOR` (R9): the address of the low byte of the entry address; the high byte is at the next address. -/
def Config.resetVector : Addr := 0xFFFC

/-- The longest program `load` takes (70_reset_and_hazards.md R147). -/
def Config.maxProgram : Nat := 0x7FFC

/-- FREE VALUE: the PC a fault leaves, "unspecified: a model gives it any value" (60_exceptions.md R132). The argument
is State's counter `freeCount`, so that two faults need not leave the same value. It has no body: no proof sees a value
of it. Log 4. -/
opaque Config.freePc : Nat → Addr

end Sys2Proof
end

