-- ==== Sys2Proof/Machine/Bits.lean ====
section
/-! DEFINITION. Bit-field, zero-extension and byte-order helpers (spec/00_scope.md R10, R11). -/

namespace Sys2Proof.Machine

/-- `zext_16(v)`: a byte widened to 16 bits with zeros (R11). -/
def zext16 (v : Byte) : Addr := v.setWidth 16

/-- `hi : lo`: the 16-bit value `hi * 256 + lo` (R11). -/
def joinBytes (hi lo : Byte) : Addr := hi ++ lo

/-- `v[7:0]` of a 16-bit value (R10). -/
def lowByte (v : Addr) : Byte := v.extractLsb' 0 8

/-- `v[15:8]` of a 16-bit value (R10). -/
def highByte (v : Addr) : Byte := v.extractLsb' 8 8

/-- `v[i]`: bit i of a byte, 0 the least significant (R10). -/
def bitOf (v : Byte) (i : Nat) : Bool := v.getLsbD i

/-- A byte with bit i set to `b`, every other bit as it was. -/
def withBit (v : Byte) (i : Nat) (b : Bool) : Byte :=
  if b then v ||| (1#8 <<< i) else v &&& ~~~(1#8 <<< i)

/-- A bit as a byte, 0 or 1. -/
def bitByte (b : Bool) : Byte := if b then 1 else 0

/-- `signed8(v)`: the two's-complement value of a byte, in -128..127 (R11). -/
def signed8 (v : Byte) : Int := v.toInt

end Sys2Proof.Machine
end

