-- ==== Sys2Proof/Machine/Memory.lean ====
section
/-! DEFINITION. Memory: a flat array of 65536 bytes, zero at construction (spec/10_state.md R22, spec/20_memory.md R27),
held as a list of (address, byte) pairs in one canonical form: addresses strictly rising and below 65536, and no entry
equal to what an unlisted address reads as (log 15). -/

namespace Sys2Proof.Machine

/-- Memory as plain data. -/
abbrev Memory := List Host.Cell

/-- What an unlisted address reads as: "Memory [is] created zeroed" (R22, R25). -/
def Memory.blank : Byte := 0

/-- Memory at construction: every byte is zero (R25). -/
def Memory.zeroed : Memory := []

/-- The canonical form. -/
abbrev Memory.wf (m : Memory) : Prop :=
  m.Pairwise (fun c d => c.1 < d.1) ∧ ∀ c ∈ m, c.1 < 0x10000 ∧ c.2 ≠ Memory.blank

/-- The byte listed at an address, or what an unlisted address reads as. -/
def Memory.cellAt : Memory → Nat → Byte
  | [], _ => Memory.blank
  | (k, w) :: m, a => if k = a then w else Memory.cellAt m a

/-- Put a byte at an address, keeping the canonical form: the blank byte is not listed. -/
def Memory.setCell : Memory → Nat → Byte → Memory
  | [], a, v => if v = Memory.blank then [] else [(a, v)]
  | (k, w) :: m, a, v =>
    if a < k then (if v = Memory.blank then (k, w) :: m else (a, v) :: (k, w) :: m)
    else if a = k then (if v = Memory.blank then m else (a, v) :: m)
    else (k, w) :: Memory.setCell m a v

/-- `MemRead(addr, 1)`, which cannot fault (20_memory.md R28). -/
def Memory.read (m : Memory) (a : Addr) : Byte := m.cellAt a.toNat

/-- `MemWrite(addr, 1, v)`, which cannot fault (20_memory.md R28). -/
def Memory.write (m : Memory) (a : Addr) (v : Byte) : Memory := m.setCell a.toNat v

/-- `MemRead16(addr)`: little-endian, the high byte at `(addr + 1) mod 2^16` (20_memory.md R29). UNVERIFIED: the wrap at
0xFFFF is the spec's own decision D5 (log 11). -/
def Memory.readWord (m : Memory) (a : Addr) : Addr := joinBytes (m.read (a + 1)) (m.read a)

/-- `MemWrite16(addr, v)`: low byte first, the high byte at `(addr + 1) mod 2^16` (20_memory.md R30, log 11). -/
def Memory.writeWord (m : Memory) (a v : Addr) : Memory := (m.write a (lowByte v)).write (a + 1) (highByte v)

/-- The bytes of a list written at consecutive addresses from `a` on, modulo 2^16. -/
def Memory.writeBytes (m : Memory) (a : Addr) : List Byte → Memory
  | [] => m
  | b :: bs => Memory.writeBytes (m.write a b) (a + 1) bs

end Sys2Proof.Machine
end

