-- ==== Sys2Proof/Syntax.lean ====
section
/-! DEFINITION. The syntax of the CORE's instructions: addressing modes, mnemonics, families, operands, opcode
descriptors (spec/30_encoding.md R44 to R50, spec/40_addressing.md section 2), and Instr, one constructor per row of
spec/opcode_table.json. An instruction carries the operand bytes that follow its opcode (log 6). -/

namespace Sys2Proof

/-- The thirteen addressing modes (40_addressing.md R62 to R75). `indirect` and `relative` have no opcode (R78). -/
inductive AddrMode where
  | implicit | accumulator | immediate
  | zeroPage | zeroPageX | zeroPageY
  | absolute | absoluteX | absoluteY
  | indirect | indirectX | indirectY
  | relative
  deriving DecidableEq, Repr

/-- The 26 mnemonics in scope (00_scope.md R3). -/
inductive Mnemonic where
  | LDA | LDX | LDY | STA | STX | STY
  | TAX | TXA | TAY | TYA
  | ADC | SBC
  | INC | DEC | INX | DEX | INY | DEY
  | ASL | LSR | ROL | ROR
  | AND | ORA | EOR
  | BRK
  deriving DecidableEq, Repr

/-- The family tag of a descriptor (30_encoding.md R49). No instruction's effect depends on it but for `halt`, which the
execution loop tests (42_execution_loop.md R93). -/
inductive Family where
  | access | transfer | arithmetic | shift | bitwise | halt
  deriving DecidableEq, Repr

/-- An operand as the instruction's bytes give it: the mode with its operand field (30_encoding.md R45, R46). A word is
`hi : lo` of its two operand bytes. -/
inductive Operand where
  | implicit
  | accumulator
  | immediate (b : Byte)
  | zeroPage (b : Byte)
  | zeroPageX (b : Byte)
  | zeroPageY (b : Byte)
  | absolute (w : Addr)
  | absoluteX (w : Addr)
  | absoluteY (w : Addr)
  | indirect (w : Addr)
  | indirectX (b : Byte)
  | indirectY (b : Byte)
  | relative (b : Byte)
  deriving DecidableEq, Repr

/-- An opcode's descriptor (30_encoding.md R47): "immutable record", with the family tag the spec adds. `cycles` is the
base count, informational only: no definition reads it (70_reset_and_hazards.md R153, log 17). -/
structure Descriptor where
  opcode   : Byte
  mnemonic : Mnemonic
  family   : Family
  mode     : AddrMode
  length   : Nat
  cycles   : Nat
  deriving DecidableEq, Repr

/-- The instructions: one constructor per row of the opcode ROM (30_encoding.md R50), named by its mnemonic and its
addressing mode (no mode in the name: Implicit). `b` is the operand byte at pc0+1, `w` the operand word at pc0+1. -/
inductive Instr where
  /-- `LDA #nn`, opcode 0xA9 (R100). -/
  | ldaImmediate (b : Byte)
  /-- `LDA nn`, opcode 0xA5 (R100). -/
  | ldaZeroPage (b : Byte)
  /-- `LDA nn,X`, opcode 0xB5 (R100). -/
  | ldaZeroPageX (b : Byte)
  /-- `LDA nnnn`, opcode 0xAD (R100). -/
  | ldaAbsolute (w : Addr)
  /-- `LDA nnnn,X`, opcode 0xBD (R100). -/
  | ldaAbsoluteX (w : Addr)
  /-- `LDA nnnn,Y`, opcode 0xB9 (R100). -/
  | ldaAbsoluteY (w : Addr)
  /-- `LDA (nn,X)`, opcode 0xA1 (R100). -/
  | ldaIndirectX (b : Byte)
  /-- `LDA (nn),Y`, opcode 0xB1 (R100). -/
  | ldaIndirectY (b : Byte)
  /-- `LDX #nn`, opcode 0xA2 (R101). -/
  | ldxImmediate (b : Byte)
  /-- `LDX nn`, opcode 0xA6 (R101). -/
  | ldxZeroPage (b : Byte)
  /-- `LDX nn,Y`, opcode 0xB6 (R101). -/
  | ldxZeroPageY (b : Byte)
  /-- `LDX nnnn`, opcode 0xAE (R101). -/
  | ldxAbsolute (w : Addr)
  /-- `LDX nnnn,Y`, opcode 0xBE (R101). -/
  | ldxAbsoluteY (w : Addr)
  /-- `LDY #nn`, opcode 0xA0 (R102). -/
  | ldyImmediate (b : Byte)
  /-- `LDY nn`, opcode 0xA4 (R102). -/
  | ldyZeroPage (b : Byte)
  /-- `LDY nn,X`, opcode 0xB4 (R102). -/
  | ldyZeroPageX (b : Byte)
  /-- `LDY nnnn`, opcode 0xAC (R102). -/
  | ldyAbsolute (w : Addr)
  /-- `LDY nnnn,X`, opcode 0xBC (R102). -/
  | ldyAbsoluteX (w : Addr)
  /-- `STA nn`, opcode 0x85 (R103). -/
  | staZeroPage (b : Byte)
  /-- `STA nn,X`, opcode 0x95 (R103). -/
  | staZeroPageX (b : Byte)
  /-- `STA nnnn`, opcode 0x8D (R103). -/
  | staAbsolute (w : Addr)
  /-- `STA nnnn,X`, opcode 0x9D (R103). -/
  | staAbsoluteX (w : Addr)
  /-- `STA nnnn,Y`, opcode 0x99 (R103). -/
  | staAbsoluteY (w : Addr)
  /-- `STA (nn,X)`, opcode 0x81 (R103). -/
  | staIndirectX (b : Byte)
  /-- `STA (nn),Y`, opcode 0x91 (R103). -/
  | staIndirectY (b : Byte)
  /-- `STX nn`, opcode 0x86 (R104). -/
  | stxZeroPage (b : Byte)
  /-- `STX nn,Y`, opcode 0x96 (R104). -/
  | stxZeroPageY (b : Byte)
  /-- `STX nnnn`, opcode 0x8E (R104). -/
  | stxAbsolute (w : Addr)
  /-- `STY nn`, opcode 0x84 (R105). -/
  | styZeroPage (b : Byte)
  /-- `STY nn,X`, opcode 0x94 (R105). -/
  | styZeroPageX (b : Byte)
  /-- `STY nnnn`, opcode 0x8C (R105). -/
  | styAbsolute (w : Addr)
  /-- `TAX`, opcode 0xAA (R107). -/
  | tax
  /-- `TXA`, opcode 0x8A (R108). -/
  | txa
  /-- `TAY`, opcode 0xA8 (R109). -/
  | tay
  /-- `TYA`, opcode 0x98 (R110). -/
  | tya
  /-- `ADC #nn`, opcode 0x69 (R111). -/
  | adcImmediate (b : Byte)
  /-- `ADC nn`, opcode 0x65 (R111). -/
  | adcZeroPage (b : Byte)
  /-- `ADC nn,X`, opcode 0x75 (R111). -/
  | adcZeroPageX (b : Byte)
  /-- `ADC nnnn`, opcode 0x6D (R111). -/
  | adcAbsolute (w : Addr)
  /-- `ADC nnnn,X`, opcode 0x7D (R111). -/
  | adcAbsoluteX (w : Addr)
  /-- `ADC nnnn,Y`, opcode 0x79 (R111). -/
  | adcAbsoluteY (w : Addr)
  /-- `ADC (nn,X)`, opcode 0x61 (R111). -/
  | adcIndirectX (b : Byte)
  /-- `ADC (nn),Y`, opcode 0x71 (R111). -/
  | adcIndirectY (b : Byte)
  /-- `SBC #nn`, opcode 0xE9 (R112). -/
  | sbcImmediate (b : Byte)
  /-- `SBC nn`, opcode 0xE5 (R112). -/
  | sbcZeroPage (b : Byte)
  /-- `SBC nn,X`, opcode 0xF5 (R112). -/
  | sbcZeroPageX (b : Byte)
  /-- `SBC nnnn`, opcode 0xED (R112). -/
  | sbcAbsolute (w : Addr)
  /-- `SBC nnnn,X`, opcode 0xFD (R112). -/
  | sbcAbsoluteX (w : Addr)
  /-- `SBC nnnn,Y`, opcode 0xF9 (R112). -/
  | sbcAbsoluteY (w : Addr)
  /-- `SBC (nn,X)`, opcode 0xE1 (R112). -/
  | sbcIndirectX (b : Byte)
  /-- `SBC (nn),Y`, opcode 0xF1 (R112). -/
  | sbcIndirectY (b : Byte)
  /-- `INC nn`, opcode 0xE6 (R114). -/
  | incZeroPage (b : Byte)
  /-- `INC nn,X`, opcode 0xF6 (R114). -/
  | incZeroPageX (b : Byte)
  /-- `INC nnnn`, opcode 0xEE (R114). -/
  | incAbsolute (w : Addr)
  /-- `INC nnnn,X`, opcode 0xFE (R114). -/
  | incAbsoluteX (w : Addr)
  /-- `DEC nn`, opcode 0xC6 (R115). -/
  | decZeroPage (b : Byte)
  /-- `DEC nn,X`, opcode 0xD6 (R115). -/
  | decZeroPageX (b : Byte)
  /-- `DEC nnnn`, opcode 0xCE (R115). -/
  | decAbsolute (w : Addr)
  /-- `DEC nnnn,X`, opcode 0xDE (R115). -/
  | decAbsoluteX (w : Addr)
  /-- `INX`, opcode 0xE8 (R116). -/
  | inx
  /-- `DEX`, opcode 0xCA (R117). -/
  | dex
  /-- `INY`, opcode 0xC8 (R118). -/
  | iny
  /-- `DEY`, opcode 0x88 (R119). -/
  | dey
  /-- `ASL A`, opcode 0x0A (R121). -/
  | aslAccumulator
  /-- `ASL nn`, opcode 0x06 (R121). -/
  | aslZeroPage (b : Byte)
  /-- `ASL nn,X`, opcode 0x16 (R121). -/
  | aslZeroPageX (b : Byte)
  /-- `ASL nnnn`, opcode 0x0E (R121). -/
  | aslAbsolute (w : Addr)
  /-- `ASL nnnn,X`, opcode 0x1E (R121). -/
  | aslAbsoluteX (w : Addr)
  /-- `LSR A`, opcode 0x4A (R122). -/
  | lsrAccumulator
  /-- `LSR nn`, opcode 0x46 (R122). -/
  | lsrZeroPage (b : Byte)
  /-- `LSR nn,X`, opcode 0x56 (R122). -/
  | lsrZeroPageX (b : Byte)
  /-- `LSR nnnn`, opcode 0x4E (R122). -/
  | lsrAbsolute (w : Addr)
  /-- `LSR nnnn,X`, opcode 0x5E (R122). -/
  | lsrAbsoluteX (w : Addr)
  /-- `ROL A`, opcode 0x2A (R123). -/
  | rolAccumulator
  /-- `ROL nn`, opcode 0x26 (R123). -/
  | rolZeroPage (b : Byte)
  /-- `ROL nn,X`, opcode 0x36 (R123). -/
  | rolZeroPageX (b : Byte)
  /-- `ROL nnnn`, opcode 0x2E (R123). -/
  | rolAbsolute (w : Addr)
  /-- `ROL nnnn,X`, opcode 0x3E (R123). -/
  | rolAbsoluteX (w : Addr)
  /-- `ROR A`, opcode 0x6A (R124). -/
  | rorAccumulator
  /-- `ROR nn`, opcode 0x66 (R124). -/
  | rorZeroPage (b : Byte)
  /-- `ROR nn,X`, opcode 0x76 (R124). -/
  | rorZeroPageX (b : Byte)
  /-- `ROR nnnn`, opcode 0x6E (R124). -/
  | rorAbsolute (w : Addr)
  /-- `ROR nnnn,X`, opcode 0x7E (R124). -/
  | rorAbsoluteX (w : Addr)
  /-- `AND #nn`, opcode 0x29 (R126). -/
  | andImmediate (b : Byte)
  /-- `AND nn`, opcode 0x25 (R126). -/
  | andZeroPage (b : Byte)
  /-- `AND nn,X`, opcode 0x35 (R126). -/
  | andZeroPageX (b : Byte)
  /-- `AND nnnn`, opcode 0x2D (R126). -/
  | andAbsolute (w : Addr)
  /-- `AND nnnn,X`, opcode 0x3D (R126). -/
  | andAbsoluteX (w : Addr)
  /-- `AND nnnn,Y`, opcode 0x39 (R126). -/
  | andAbsoluteY (w : Addr)
  /-- `AND (nn,X)`, opcode 0x21 (R126). -/
  | andIndirectX (b : Byte)
  /-- `AND (nn),Y`, opcode 0x31 (R126). -/
  | andIndirectY (b : Byte)
  /-- `ORA #nn`, opcode 0x09 (R127). -/
  | oraImmediate (b : Byte)
  /-- `ORA nn`, opcode 0x05 (R127). -/
  | oraZeroPage (b : Byte)
  /-- `ORA nn,X`, opcode 0x15 (R127). -/
  | oraZeroPageX (b : Byte)
  /-- `ORA nnnn`, opcode 0x0D (R127). -/
  | oraAbsolute (w : Addr)
  /-- `ORA nnnn,X`, opcode 0x1D (R127). -/
  | oraAbsoluteX (w : Addr)
  /-- `ORA nnnn,Y`, opcode 0x19 (R127). -/
  | oraAbsoluteY (w : Addr)
  /-- `ORA (nn,X)`, opcode 0x01 (R127). -/
  | oraIndirectX (b : Byte)
  /-- `ORA (nn),Y`, opcode 0x11 (R127). -/
  | oraIndirectY (b : Byte)
  /-- `EOR #nn`, opcode 0x49 (R128). -/
  | eorImmediate (b : Byte)
  /-- `EOR nn`, opcode 0x45 (R128). -/
  | eorZeroPage (b : Byte)
  /-- `EOR nn,X`, opcode 0x55 (R128). -/
  | eorZeroPageX (b : Byte)
  /-- `EOR nnnn`, opcode 0x4D (R128). -/
  | eorAbsolute (w : Addr)
  /-- `EOR nnnn,X`, opcode 0x5D (R128). -/
  | eorAbsoluteX (w : Addr)
  /-- `EOR nnnn,Y`, opcode 0x59 (R128). -/
  | eorAbsoluteY (w : Addr)
  /-- `EOR (nn,X)`, opcode 0x41 (R128). -/
  | eorIndirectX (b : Byte)
  /-- `EOR (nn),Y`, opcode 0x51 (R128). -/
  | eorIndirectY (b : Byte)
  /-- `BRK`, opcode 0x00 (R98). -/
  | brk
  deriving DecidableEq, Repr

end Sys2Proof
end

