-- ==== Sys2Proof/Machine/State.lean ====
section
/-! DEFINITION. The state of the CORE (spec/10_state.md), the reasons a step can stop (spec/60_exceptions.md R129 to R136),
and the state after construction and after reset (R25, R26). -/

namespace Sys2Proof.Machine

/-- The error record, "Two error kinds only" with their payloads (60_exceptions.md R129, R130, R131). -/
inductive FaultRecord where
  /-- A fetched byte with no entry in the opcode table, and the address it was fetched from (R130). -/
  | unrecognizedOpcode (byte : Byte) (pc0 : Addr)
  /-- A mode with no address, asked for one by an instruction that needs it (R131). -/
  | unsupportedAddressingMode (opcode : Byte) (pc0 : Addr) (mode : AddrMode)
  deriving DecidableEq, Repr

/-- The hidden run status (10_state.md R23). -/
inductive Status where
  /-- Not inside a run: after construction and reset. -/
  | ready
  /-- Inside a run. -/
  | running
  /-- The last run ended at BRK. -/
  | halted
  /-- The last run ended at a fatal error. -/
  | faulted (record : FaultRecord)
  deriving DecidableEq, Repr

/-- The whole state of the core. -/
structure State where
  /-- A, the accumulator (10_state.md R14). -/
  a : Byte
  /-- X, an index register (R14). -/
  x : Byte
  /-- Y, an index register (R14). -/
  y : Byte
  /-- P, the status register: N V - - D I Z C from bit 7 down to bit 0 (R16). -/
  p : Byte
  /-- SP, reserved: no instruction, mode or reset step reads or writes it (R20). -/
  sp : Byte
  /-- PC, the program counter (R21). -/
  pc : Addr
  /-- The 65536 bytes of memory (R22). -/
  mem : Memory
  /-- The run status (R23). -/
  status : Status
  /-- The MODEL's own field: how many free values have been drawn (log 4). -/
  freeCount : Nat
  deriving DecidableEq, Repr

/-- Why the machine stops with a fault: the two error kinds (60_exceptions.md R129), each with its record and with the
state the fault leaves (R132). -/
inductive Fault where
  /-- Raised by the fetch of a byte that has no row in the opcode ROM (R130). Safe: the spec's own fatal error. -/
  | unrecognizedOpcode (byte : Byte) (pc0 : Addr) (left : State)
  /-- Raised by `EA` when the mode has no address (R131, 40_addressing.md R76); no row of this hardware's ROM raises it.
  Safe: the spec's own fatal error. -/
  | unsupportedAddressingMode (opcode : Byte) (pc0 : Addr) (mode : AddrMode) (left : State)
  deriving DecidableEq, Repr

/-- Why the model has no transition. -/
inductive Refusal where
  /-- An instruction without a meaning yet, raised by an arm of exec; there is none. Safe. -/
  | notModelled (mnemonic : String)
  /-- A step or a run from `Faulted`, "refused by the model" (42_execution_loop.md R92). Raised by step and by the host's
  run. Safe. -/
  | runFromFaulted (record : FaultRecord)
  /-- A host operation during a run, not allowed (70_reset_and_hazards.md R150). Raised by the host operations. Safe. -/
  | hostDuringRun
  /-- A host write of a whole state whose status is `Running`: the host makes no move inside a run (R150; DESIGN CHOICE,
  log 21). Raised by the host's write of the whole state. Safe. -/
  | hostWritesRunning
  /-- `load` of a program longer than 0x7FFC bytes, which a model refuses (R147). Raised by load. Safe. -/
  | programTooLong (length : Nat)
  deriving DecidableEq, Repr

/-- What a step, a meaning or a host operation answers. -/
abbrev Result := Host.Outcome State Fault Refusal

/-- Where the instruction in execution was fetched: its opcode and the opcode's address, for the error record (R131). -/
structure FetchSite where
  opcode : Byte
  pc0    : Addr
  deriving DecidableEq, Repr

/-- P after reset as its fields: C = 0, Z = 0, I = 1, D = 0, bits 4 and 5 the parameters, V = 0, N = 0
(10_state.md R26). With the parameters' values 0 and 1 it is 0b00100100. -/
def State.resetP : Byte :=
  0b00000100#8 ||| (if Config.pBit4Reset then 0b00010000#8 else 0#8) ||| (if Config.pBit5Reset then 0b00100000#8 else 0#8)

/-- The state CPU construction makes (10_state.md R25). -/
def State.constructed : State where
  a := 0x00
  x := 0x00
  y := 0x00
  p := 0x00
  sp := 0x00
  pc := 0x0000
  mem := Memory.zeroed
  status := .ready
  freeCount := 0

/-- The machine right after construction and reset (10_state.md R26, 70_reset_and_hazards.md R148), nothing loaded: PC is
the word the reset vector holds in zeroed memory. Log 5. -/
def State.reset : State where
  a := 0x00
  x := 0x00
  y := 0x00
  p := State.resetP
  sp := 0x00
  pc := Memory.readWord Memory.zeroed Config.resetVector
  mem := Memory.zeroed
  status := .ready
  freeCount := 0

end Sys2Proof.Machine
end

