-- ==== Sys2Proof/Machine/Ops.lean ====
section
/-! DEFINITION. The named operations over registers and memory (spec/00_scope.md R12), and taking a fault, the one way this
machine leaves a run abnormally (spec/60_exceptions.md R132 to R136). The spec gives the core no return from a fault:
only the host leaves `Faulted`, by a new construction, a reset or a write of the whole state (R132, R136;
Machine/Lifecycle.lean). -/

namespace Sys2Proof.Machine

/-- `A <- v` (R12). -/
def State.setA (s : State) (v : Byte) : State := { s with a := v }
/-- `X <- v` (R12). -/
def State.setX (s : State) (v : Byte) : State := { s with x := v }
/-- `Y <- v` (R12). -/
def State.setY (s : State) (v : Byte) : State := { s with y := v }
/-- `P <- v`; only reset and the host write P whole (10_state.md R19). -/
def State.setP (s : State) (v : Byte) : State := { s with p := v }
/-- `SP <- v`; only the host does this (10_state.md R20). -/
def State.setSp (s : State) (v : Byte) : State := { s with sp := v }
/-- `pc <- target` (R12). -/
def State.setPc (s : State) (v : Addr) : State := { s with pc := v }
/-- `status <- v` (10_state.md R23). -/
def State.setStatus (s : State) (v : Status) : State := { s with status := v }
/-- The MODEL's own counter of free values replaced (log 4). -/
def State.setFreeCount (s : State) (n : Nat) : State := { s with freeCount := n }
/-- Memory replaced. -/
def State.setMem (s : State) (m : Memory) : State := { s with mem := m }

/-- `MemRead(addr, 1)` (20_memory.md R28). -/
def State.read (s : State) (a : Addr) : Byte := s.mem.read a
/-- `MemRead16(addr)` (20_memory.md R29). -/
def State.readWord (s : State) (a : Addr) : Addr := s.mem.readWord a
/-- `MemWrite(addr, 1, v)` (20_memory.md R28). -/
def State.write (s : State) (a : Addr) (v : Byte) : State := s.setMem (s.mem.write a v)

/-- PC past the opcode, where the resolver reads operands (42_execution_loop.md R93, 40_addressing.md R59). -/
def State.atOperand (s : State) : State := s.setPc (s.pc + 1)

/-- The state a fault leaves: registers and memory as they were, the record in `status`, PC any value, a FREE VALUE
(60_exceptions.md R132; log 4). Nothing is saved, and no mode or vector is taken (R135). -/
def State.takeFault (r : FaultRecord) (s : State) : State :=
  { s with status := .faulted r, pc := Config.freePc s.freeCount, freeCount := s.freeCount + 1 }

/-- Taking a fault: the run ends, and the outcome is the record with the state the fault leaves (00_scope.md R13,
60_exceptions.md R130, R131, R135; log 3). -/
def raise (r : FaultRecord) (s : State) : Result :=
  match r with
  | .unrecognizedOpcode byte pc0 => .fault (.unrecognizedOpcode byte pc0 (s.takeFault r))
  | .unsupportedAddressingMode opcode pc0 mode => .fault (.unsupportedAddressingMode opcode pc0 mode (s.takeFault r))

/-- The record of a fault (60_exceptions.md R129). -/
def Fault.record : Fault → FaultRecord
  | .unrecognizedOpcode byte pc0 _ => .unrecognizedOpcode byte pc0
  | .unsupportedAddressingMode opcode pc0 mode _ => .unsupportedAddressingMode opcode pc0 mode

/-- The state a fault leaves (60_exceptions.md R132). -/
def Fault.left : Fault → State
  | .unrecognizedOpcode _ _ t => t
  | .unsupportedAddressingMode _ _ _ t => t

/-- The halt of BRK, after PC has moved past the opcode: "`status <- Halted`", and nothing else (42_execution_loop.md
R98). -/
def State.halt (s : State) : State := s.setStatus .halted

/-- Run a handler as the execution loop does (42_execution_loop.md R93): PC moves past the opcode, the handler runs with
its operand there, and after it returns PC is "advanced by `descriptor.length - 1`". PC wraps modulo 2^16 (log 11). -/
def runHandler (opcode : Byte) (length : Nat) (handler : FetchSite → State → Result) (s : State) : Result :=
  match handler ⟨opcode, s.pc⟩ s.atOperand with
  | .next t => .next (t.setPc (t.pc + BitVec.ofNat 16 (length - 1)))
  | .fault f => .fault f
  | .refused r => .refused r

end Sys2Proof.Machine
end

