-- ==== Sys2Proof/Machine/Flags.lean ====
section
/-! DEFINITION. The flags of P, their updates, and the 8-bit ALU (spec/41_flags_alu.md). -/

namespace Sys2Proof.Machine

/-- The six named flags (10_state.md R16). -/
inductive Flag where
  | C | Z | I | D | V | N
  deriving DecidableEq, Repr

/-- A flag's bit in P: "Carry(0), Zero(1), InterruptDisable(2), Decimal(3), Overflow(6), Negative(7)" (10_state.md R16). -/
def Flag.bit : Flag → Nat
  | .C => 0
  | .Z => 1
  | .I => 2
  | .D => 3
  | .V => 6
  | .N => 7

/-- `get(flag)`, written `P.f` (R79). -/
def State.flag (s : State) (f : Flag) : Bool := bitOf s.p f.bit

/-- `set(flag, b)`, written `P.f <- b`: no other bit of P changes (R79). -/
def State.setFlag (s : State) (f : Flag) (b : Bool) : State := s.setP (withBit s.p f.bit b)

/-- `update_zero_and_negative(r)` (R80). -/
def State.updateZN (s : State) (r : Byte) : State := (s.setFlag .Z (r == 0x00)).setFlag .N (bitOf r 7)

/-! ## The ALU -/

/-- What the adder gives: the result, the carry out and the signed overflow. -/
structure AddResult where
  r    : Byte
  cout : Bool
  v    : Bool
  deriving DecidableEq, Repr

/-- `add8(a, b, cin)` (R85). -/
def add8 (a b : Byte) (cin : Bool) : AddResult :=
  let s := a.toNat + b.toNat + cin.toNat
  let r : Byte := BitVec.ofNat 8 s
  { r := r, cout := decide (0x100 ≤ s), v := ((r ^^^ a) &&& (r ^^^ b) &&& 0x80) != 0 }

/-- `inc8(v)` (R86). -/
def inc8 (v : Byte) : Byte := v + 1
/-- `dec8(v) = (v + 0xFF) mod 2^8` (R86). -/
def dec8 (v : Byte) : Byte := v + 0xFF

/-- `asl8(v)`: the result and the carry out; the carry in has no part (R87). -/
def asl8 (v : Byte) (_cin : Bool) : Byte × Bool := (v <<< 1, bitOf v 7)
/-- `lsr8(v)`: the result and the carry out; the carry in has no part (R87). -/
def lsr8 (v : Byte) (_cin : Bool) : Byte × Bool := (v >>> 1, bitOf v 0)
/-- `rol8(v, cin)` (R87). -/
def rol8 (v : Byte) (cin : Bool) : Byte × Bool := ((v <<< 1) ||| bitByte cin, bitOf v 7)
/-- `ror8(v, cin)` (R87). -/
def ror8 (v : Byte) (cin : Bool) : Byte × Bool := ((v >>> 1) ||| (bitByte cin <<< 7), bitOf v 0)

/-- `and8(a, b)` (R88). -/
def and8 (a b : Byte) : Byte := a &&& b
/-- `or8(a, b)` (R88). -/
def or8 (a b : Byte) : Byte := a ||| b
/-- `xor8(a, b)` (R88). -/
def xor8 (a b : Byte) : Byte := a ^^^ b

end Sys2Proof.Machine
end

