-- ==== Sys2Proof/Machine/Forms.lean ====
section
/-! DEFINITION. The forms of instructions: how many bytes a mode takes, which family a mnemonic is tagged with, which
modes a mnemonic has, and an instruction's mnemonic, operand and length (spec/30_encoding.md R45, R49,
spec/40_addressing.md R78). -/

namespace Sys2Proof

/-- Operand bytes after the opcode: the format F1, F2 or F3 of the mode (30_encoding.md R44, R45). -/
def AddrMode.operandBytes : AddrMode → Nat
  | .implicit | .accumulator => 0
  | .immediate | .zeroPage | .zeroPageX | .zeroPageY | .indirectX | .indirectY | .relative => 1
  | .absolute | .absoluteX | .absoluteY | .indirect => 2

/-- Instruction length in bytes: the opcode and its operand bytes (30_encoding.md R45). -/
def AddrMode.length (m : AddrMode) : Nat := 1 + m.operandBytes

/-- The family tag of each mnemonic (30_encoding.md R49). -/
def Mnemonic.family : Mnemonic → Family
  | .LDA | .LDX | .LDY | .STA | .STX | .STY => .access
  | .TAX | .TXA | .TAY | .TYA => .transfer
  | .ADC | .SBC | .INC | .DEC | .INX | .DEX | .INY | .DEY => .arithmetic
  | .ASL | .LSR | .ROL | .ROR => .shift
  | .AND | .ORA | .EOR => .bitwise
  | .BRK => .halt

/-- The mnemonics that have a mode (40_addressing.md R78). -/
def AddrMode.users : AddrMode → List Mnemonic
  | .immediate => [.LDA, .LDX, .LDY, .ADC, .SBC, .AND, .ORA, .EOR]
  | .zeroPage => [.LDA, .LDX, .LDY, .STA, .STX, .STY, .ADC, .SBC, .AND, .ORA, .EOR, .INC, .DEC, .ASL, .LSR, .ROL, .ROR]
  | .zeroPageX => [.LDA, .LDY, .STA, .STY, .ADC, .SBC, .AND, .ORA, .EOR, .INC, .DEC, .ASL, .LSR, .ROL, .ROR]
  | .zeroPageY => [.LDX, .STX]
  | .absolute => [.LDA, .LDX, .LDY, .STA, .STX, .STY, .ADC, .SBC, .AND, .ORA, .EOR, .INC, .DEC, .ASL, .LSR, .ROL, .ROR]
  | .absoluteX => [.LDA, .LDY, .STA, .ADC, .SBC, .AND, .ORA, .EOR, .INC, .DEC, .ASL, .LSR, .ROL, .ROR]
  | .absoluteY => [.LDA, .LDX, .STA, .ADC, .SBC, .AND, .ORA, .EOR]
  | .indirectX => [.LDA, .STA, .ADC, .SBC, .AND, .ORA, .EOR]
  | .indirectY => [.LDA, .STA, .ADC, .SBC, .AND, .ORA, .EOR]
  | .indirect => []
  | .relative => []
  | .implicit => [.TAX, .TXA, .TAY, .TYA, .INX, .DEX, .INY, .DEY, .BRK]
  | .accumulator => [.ASL, .LSR, .ROL, .ROR]

/-- Whether a mnemonic has a mode (40_addressing.md R78). -/
def Mnemonic.accepts (m : Mnemonic) (mode : AddrMode) : Bool := mode.users.contains m

/-- An operand's addressing mode. -/
def Operand.mode : Operand → AddrMode
  | .implicit => .implicit
  | .accumulator => .accumulator
  | .immediate _ => .immediate
  | .zeroPage _ => .zeroPage
  | .zeroPageX _ => .zeroPageX
  | .zeroPageY _ => .zeroPageY
  | .absolute _ => .absolute
  | .absoluteX _ => .absoluteX
  | .absoluteY _ => .absoluteY
  | .indirect _ => .indirect
  | .indirectX _ => .indirectX
  | .indirectY _ => .indirectY
  | .relative _ => .relative

/-- The operand a mode makes of the two bytes after the opcode, `b1` the first and `b2` the second: a byte, or the word
`b2 : b1`, low byte first (30_encoding.md R45, R46). Modes of a shorter format do not look at the bytes they lack. -/
def AddrMode.operandOf (mode : AddrMode) (b1 b2 : Byte) : Operand :=
  match mode with
  | .implicit => .implicit
  | .accumulator => .accumulator
  | .immediate => .immediate b1
  | .zeroPage => .zeroPage b1
  | .zeroPageX => .zeroPageX b1
  | .zeroPageY => .zeroPageY b1
  | .absolute => .absolute (Machine.joinBytes b2 b1)
  | .absoluteX => .absoluteX (Machine.joinBytes b2 b1)
  | .absoluteY => .absoluteY (Machine.joinBytes b2 b1)
  | .indirect => .indirect (Machine.joinBytes b2 b1)
  | .indirectX => .indirectX b1
  | .indirectY => .indirectY b1
  | .relative => .relative b1

/-- The bytes an operand takes in memory, in address order: a word's low byte comes first (20_memory.md R31). -/
def Operand.bytes : Operand → List Byte
  | .implicit | .accumulator => []
  | .immediate b | .zeroPage b | .zeroPageX b | .zeroPageY b | .indirectX b | .indirectY b | .relative b => [b]
  | .absolute w | .absoluteX w | .absoluteY w | .indirect w => [Machine.lowByte w, Machine.highByte w]

/-- An instruction's mnemonic. -/
def Instr.mnemonic : Instr → Mnemonic
  | .ldaImmediate _ | .ldaZeroPage _ | .ldaZeroPageX _ | .ldaAbsolute _ | .ldaAbsoluteX _ | .ldaAbsoluteY _ |
    .ldaIndirectX _ | .ldaIndirectY _ => .LDA
  | .ldxImmediate _ | .ldxZeroPage _ | .ldxZeroPageY _ | .ldxAbsolute _ | .ldxAbsoluteY _ => .LDX
  | .ldyImmediate _ | .ldyZeroPage _ | .ldyZeroPageX _ | .ldyAbsolute _ | .ldyAbsoluteX _ => .LDY
  | .staZeroPage _ | .staZeroPageX _ | .staAbsolute _ | .staAbsoluteX _ | .staAbsoluteY _ | .staIndirectX _ |
    .staIndirectY _ => .STA
  | .stxZeroPage _ | .stxZeroPageY _ | .stxAbsolute _ => .STX
  | .styZeroPage _ | .styZeroPageX _ | .styAbsolute _ => .STY
  | .tax => .TAX
  | .txa => .TXA
  | .tay => .TAY
  | .tya => .TYA
  | .adcImmediate _ | .adcZeroPage _ | .adcZeroPageX _ | .adcAbsolute _ | .adcAbsoluteX _ | .adcAbsoluteY _ |
    .adcIndirectX _ | .adcIndirectY _ => .ADC
  | .sbcImmediate _ | .sbcZeroPage _ | .sbcZeroPageX _ | .sbcAbsolute _ | .sbcAbsoluteX _ | .sbcAbsoluteY _ |
    .sbcIndirectX _ | .sbcIndirectY _ => .SBC
  | .incZeroPage _ | .incZeroPageX _ | .incAbsolute _ | .incAbsoluteX _ => .INC
  | .decZeroPage _ | .decZeroPageX _ | .decAbsolute _ | .decAbsoluteX _ => .DEC
  | .inx => .INX
  | .dex => .DEX
  | .iny => .INY
  | .dey => .DEY
  | .aslAccumulator | .aslZeroPage _ | .aslZeroPageX _ | .aslAbsolute _ | .aslAbsoluteX _ => .ASL
  | .lsrAccumulator | .lsrZeroPage _ | .lsrZeroPageX _ | .lsrAbsolute _ | .lsrAbsoluteX _ => .LSR
  | .rolAccumulator | .rolZeroPage _ | .rolZeroPageX _ | .rolAbsolute _ | .rolAbsoluteX _ => .ROL
  | .rorAccumulator | .rorZeroPage _ | .rorZeroPageX _ | .rorAbsolute _ | .rorAbsoluteX _ => .ROR
  | .andImmediate _ | .andZeroPage _ | .andZeroPageX _ | .andAbsolute _ | .andAbsoluteX _ | .andAbsoluteY _ |
    .andIndirectX _ | .andIndirectY _ => .AND
  | .oraImmediate _ | .oraZeroPage _ | .oraZeroPageX _ | .oraAbsolute _ | .oraAbsoluteX _ | .oraAbsoluteY _ |
    .oraIndirectX _ | .oraIndirectY _ => .ORA
  | .eorImmediate _ | .eorZeroPage _ | .eorZeroPageX _ | .eorAbsolute _ | .eorAbsoluteX _ | .eorAbsoluteY _ |
    .eorIndirectX _ | .eorIndirectY _ => .EOR
  | .brk => .BRK

/-- An instruction's operand: its mode and its operand field. -/
def Instr.operand : Instr → Operand
  | .tax | .txa | .tay | .tya | .inx | .dex | .iny | .dey | .brk => .implicit
  | .aslAccumulator | .lsrAccumulator | .rolAccumulator | .rorAccumulator => .accumulator
  | .ldaImmediate b | .ldxImmediate b | .ldyImmediate b | .adcImmediate b | .sbcImmediate b | .andImmediate b |
    .oraImmediate b | .eorImmediate b => .immediate b
  | .ldaZeroPage b | .ldxZeroPage b | .ldyZeroPage b | .staZeroPage b | .stxZeroPage b | .styZeroPage b |
    .adcZeroPage b | .sbcZeroPage b | .incZeroPage b | .decZeroPage b | .aslZeroPage b | .lsrZeroPage b |
    .rolZeroPage b | .rorZeroPage b | .andZeroPage b | .oraZeroPage b | .eorZeroPage b => .zeroPage b
  | .ldaZeroPageX b | .ldyZeroPageX b | .staZeroPageX b | .styZeroPageX b | .adcZeroPageX b | .sbcZeroPageX b |
    .incZeroPageX b | .decZeroPageX b | .aslZeroPageX b | .lsrZeroPageX b | .rolZeroPageX b | .rorZeroPageX b |
    .andZeroPageX b | .oraZeroPageX b | .eorZeroPageX b => .zeroPageX b
  | .ldxZeroPageY b | .stxZeroPageY b => .zeroPageY b
  | .ldaAbsolute w | .ldxAbsolute w | .ldyAbsolute w | .staAbsolute w | .stxAbsolute w | .styAbsolute w |
    .adcAbsolute w | .sbcAbsolute w | .incAbsolute w | .decAbsolute w | .aslAbsolute w | .lsrAbsolute w |
    .rolAbsolute w | .rorAbsolute w | .andAbsolute w | .oraAbsolute w | .eorAbsolute w => .absolute w
  | .ldaAbsoluteX w | .ldyAbsoluteX w | .staAbsoluteX w | .adcAbsoluteX w | .sbcAbsoluteX w | .incAbsoluteX w |
    .decAbsoluteX w | .aslAbsoluteX w | .lsrAbsoluteX w | .rolAbsoluteX w | .rorAbsoluteX w | .andAbsoluteX w |
    .oraAbsoluteX w | .eorAbsoluteX w => .absoluteX w
  | .ldaAbsoluteY w | .ldxAbsoluteY w | .staAbsoluteY w | .adcAbsoluteY w | .sbcAbsoluteY w | .andAbsoluteY w |
    .oraAbsoluteY w | .eorAbsoluteY w => .absoluteY w
  | .ldaIndirectX b | .staIndirectX b | .adcIndirectX b | .sbcIndirectX b | .andIndirectX b | .oraIndirectX b |
    .eorIndirectX b => .indirectX b
  | .ldaIndirectY b | .staIndirectY b | .adcIndirectY b | .sbcIndirectY b | .andIndirectY b | .oraIndirectY b |
    .eorIndirectY b => .indirectY b

/-- An instruction's addressing mode. -/
def Instr.mode (i : Instr) : AddrMode := i.operand.mode

/-- An instruction's length in bytes (30_encoding.md R44, R45). -/
def Instr.length (i : Instr) : Nat := i.mode.length

end Sys2Proof
end

