-- ==== Sys2Proof/Machine/Operands.lean ====
section
/-! DEFINITION. The addressing-mode resolver and the operand helpers (spec/40_addressing.md). In every definition the
state's PC is `p`, the address of the first operand byte (R59), and nothing is written (R58). The operand field is the one
the instruction carries; `fetchOperand` is the read of it at PC, and `resolveAt` the spec's `resolve(mode)`, which makes
both (log 6). -/

namespace Sys2Proof.Machine

/-- `ZPWord(t)`: the pointer at a zero-page address, both bytes in the zero page (R70). UNVERIFIED: the 8-bit wrap is the
spec's own decision D6 (log 11). -/
def State.zpWord (s : State) (t : Byte) : Addr := joinBytes (s.read (zext16 (t + 1))) (s.read (zext16 t))

/-- The effective address of an operand, or none for `NoAddress`: one arm per mode (R62 to R75). UNVERIFIED: `indirect` and
`relative` follow the spec's own decisions D10 and D9, and no opcode has them (log 13). -/
def resolve (o : Operand) (s : State) : Option Addr :=
  match o with
  | .immediate _ => some s.pc
  | .zeroPage b => some (zext16 b)
  | .zeroPageX b => some (zext16 (b + s.x))
  | .zeroPageY b => some (zext16 (b + s.y))
  | .absolute w => some w
  | .absoluteX w => some (w + zext16 s.x)
  | .absoluteY w => some (w + zext16 s.y)
  | .indirect w => some w
  | .indirectX b => some (s.zpWord (b + s.x))
  | .indirectY b => some (s.zpWord b + zext16 s.y)
  | .relative b => some (s.pc + zext16 b)
  | .implicit => none
  | .accumulator => none

/-- The operand field the bytes at PC hold, for a mode (30_encoding.md R45, R46): no byte for Implicit and Accumulator,
one byte or a little-endian word for the others. A byte the mode does not have is not looked at. -/
def fetchOperand (mode : AddrMode) (s : State) : Operand := mode.operandOf (s.read s.pc) (s.read (s.pc + 1))

/-- `resolve(mode)` (R58): the operand bytes at PC, then the address they name. -/
def resolveAt (mode : AddrMode) (s : State) : Option Addr := resolve (fetchOperand mode s) s

/-- `Operand(mode)`, the byte M an instruction reads, or none for `NoAddress` (R77). For Immediate it is the operand byte
itself, the byte at `p`. -/
def operandByte (o : Operand) (s : State) : Option Byte :=
  match o with
  | .accumulator => some s.a
  | .immediate b => some b
  | o => (resolve o s).map s.read

/-- `EA(mode)` for an instruction whose operand is in memory: the effective address is handed on, and `NoAddress` raises
UnsupportedAddressingMode (R76). -/
def withEA (site : FetchSite) (o : Operand) (s : State) (k : Addr → Result) : Result :=
  match resolve o s with
  | some ea => k ea
  | none => raise (.unsupportedAddressingMode site.opcode site.pc0 o.mode) s

/-- `Operand(mode)` for a reading instruction: M is handed on, and `NoAddress` raises UnsupportedAddressingMode (R76,
R77). -/
def withOperand (site : FetchSite) (o : Operand) (s : State) (k : Byte → Result) : Result :=
  match operandByte o s with
  | some m => k m
  | none => raise (.unsupportedAddressingMode site.opcode site.pc0 o.mode) s

end Sys2Proof.Machine
end

