-- ==== Sys2Proof/Machine/Arithmetic.lean ====
section
/-! DEFINITION. Add and subtract with carry, binary whatever D holds (spec/45_arithmetic.md R111, R112,
spec/41_flags_alu.md R83): one handler per mnemonic, over any operand, and one meaning per row of the opcode table, which runs the handler as the execution loop does
(42_execution_loop.md R93, R94) with the row's opcode, length and operand. In a handler the state's PC is at the operand. -/

namespace Sys2Proof.Machine

/-- Put the adder's outputs in A, C, V, Z and N, in the order of R111. -/
def State.addInto (s : State) (sum : AddResult) : State :=
  (((s.setA sum.r).setFlag .C sum.cout).setFlag .V sum.v).updateZN sum.r

/-- ADC: `(r, c, v) <- add8(A, m, P.C)`, with P.C sampled before it is written (R111, R89). -/
def adc (site : FetchSite) (o : Operand) (s : State) : Result :=
  withOperand site o s fun m => .next (s.addInto (add8 s.a m (s.flag .C)))

/-- SBC: `(r, c, v) <- add8(A, ~m, P.C)` (R112). UNVERIFIED: that V is computed with `~m`, the value added, is the spec's
own decision D7 (log 12). -/
def sbc (site : FetchSite) (o : Operand) (s : State) : Result :=
  withOperand site o s fun m => .next (s.addInto (add8 s.a (~~~m) (s.flag .C)))

/-! ## The rows -/

/-- `ADC #nn` (R111). -/
def execAdcImmediate (b : Byte) (s : State) : Result := runHandler 0x69 2 (fun site => adc site (.immediate b)) s

/-- `ADC nn` (R111). -/
def execAdcZeroPage (b : Byte) (s : State) : Result := runHandler 0x65 2 (fun site => adc site (.zeroPage b)) s

/-- `ADC nn,X` (R111). -/
def execAdcZeroPageX (b : Byte) (s : State) : Result := runHandler 0x75 2 (fun site => adc site (.zeroPageX b)) s

/-- `ADC nnnn` (R111). -/
def execAdcAbsolute (w : Addr) (s : State) : Result := runHandler 0x6D 3 (fun site => adc site (.absolute w)) s

/-- `ADC nnnn,X` (R111). -/
def execAdcAbsoluteX (w : Addr) (s : State) : Result := runHandler 0x7D 3 (fun site => adc site (.absoluteX w)) s

/-- `ADC nnnn,Y` (R111). -/
def execAdcAbsoluteY (w : Addr) (s : State) : Result := runHandler 0x79 3 (fun site => adc site (.absoluteY w)) s

/-- `ADC (nn,X)` (R111). -/
def execAdcIndirectX (b : Byte) (s : State) : Result := runHandler 0x61 2 (fun site => adc site (.indirectX b)) s

/-- `ADC (nn),Y` (R111). -/
def execAdcIndirectY (b : Byte) (s : State) : Result := runHandler 0x71 2 (fun site => adc site (.indirectY b)) s

/-- `SBC #nn` (R112). -/
def execSbcImmediate (b : Byte) (s : State) : Result := runHandler 0xE9 2 (fun site => sbc site (.immediate b)) s

/-- `SBC nn` (R112). -/
def execSbcZeroPage (b : Byte) (s : State) : Result := runHandler 0xE5 2 (fun site => sbc site (.zeroPage b)) s

/-- `SBC nn,X` (R112). -/
def execSbcZeroPageX (b : Byte) (s : State) : Result := runHandler 0xF5 2 (fun site => sbc site (.zeroPageX b)) s

/-- `SBC nnnn` (R112). -/
def execSbcAbsolute (w : Addr) (s : State) : Result := runHandler 0xED 3 (fun site => sbc site (.absolute w)) s

/-- `SBC nnnn,X` (R112). -/
def execSbcAbsoluteX (w : Addr) (s : State) : Result := runHandler 0xFD 3 (fun site => sbc site (.absoluteX w)) s

/-- `SBC nnnn,Y` (R112). -/
def execSbcAbsoluteY (w : Addr) (s : State) : Result := runHandler 0xF9 3 (fun site => sbc site (.absoluteY w)) s

/-- `SBC (nn,X)` (R112). -/
def execSbcIndirectX (b : Byte) (s : State) : Result := runHandler 0xE1 2 (fun site => sbc site (.indirectX b)) s

/-- `SBC (nn),Y` (R112). -/
def execSbcIndirectY (b : Byte) (s : State) : Result := runHandler 0xF1 2 (fun site => sbc site (.indirectY b)) s

end Sys2Proof.Machine
end

