-- ==== Sys2Proof/Machine/Bitwise.lean ====
section
/-! DEFINITION. Bitwise logic (spec/48_bitwise.md R125 to R128): one handler per mnemonic, over any
operand, and one meaning per row of the opcode table, which runs the handler as the execution loop does
(42_execution_loop.md R93, R94) with the row's opcode, length and operand. In a handler the state's PC is at the operand. -/

namespace Sys2Proof.Machine

/-- AND: `m <- Operand(mode); A <- and8(A, m); update_zero_and_negative(A)` (R126). -/
def andA (site : FetchSite) (o : Operand) (s : State) : Result :=
  withOperand site o s fun m => .next ((s.setA (and8 s.a m)).updateZN (and8 s.a m))

/-- ORA: `m <- Operand(mode); A <- or8(A, m); update_zero_and_negative(A)` (R127). -/
def ora (site : FetchSite) (o : Operand) (s : State) : Result :=
  withOperand site o s fun m => .next ((s.setA (or8 s.a m)).updateZN (or8 s.a m))

/-- EOR: `m <- Operand(mode); A <- xor8(A, m); update_zero_and_negative(A)` (R128; present with HAS_EOR, log 8). -/
def eor (site : FetchSite) (o : Operand) (s : State) : Result :=
  withOperand site o s fun m => .next ((s.setA (xor8 s.a m)).updateZN (xor8 s.a m))

/-! ## The rows -/

/-- `AND #nn` (R126). -/
def execAndImmediate (b : Byte) (s : State) : Result := runHandler 0x29 2 (fun site => andA site (.immediate b)) s

/-- `AND nn` (R126). -/
def execAndZeroPage (b : Byte) (s : State) : Result := runHandler 0x25 2 (fun site => andA site (.zeroPage b)) s

/-- `AND nn,X` (R126). -/
def execAndZeroPageX (b : Byte) (s : State) : Result := runHandler 0x35 2 (fun site => andA site (.zeroPageX b)) s

/-- `AND nnnn` (R126). -/
def execAndAbsolute (w : Addr) (s : State) : Result := runHandler 0x2D 3 (fun site => andA site (.absolute w)) s

/-- `AND nnnn,X` (R126). -/
def execAndAbsoluteX (w : Addr) (s : State) : Result := runHandler 0x3D 3 (fun site => andA site (.absoluteX w)) s

/-- `AND nnnn,Y` (R126). -/
def execAndAbsoluteY (w : Addr) (s : State) : Result := runHandler 0x39 3 (fun site => andA site (.absoluteY w)) s

/-- `AND (nn,X)` (R126). -/
def execAndIndirectX (b : Byte) (s : State) : Result := runHandler 0x21 2 (fun site => andA site (.indirectX b)) s

/-- `AND (nn),Y` (R126). -/
def execAndIndirectY (b : Byte) (s : State) : Result := runHandler 0x31 2 (fun site => andA site (.indirectY b)) s

/-- `ORA #nn` (R127). -/
def execOraImmediate (b : Byte) (s : State) : Result := runHandler 0x09 2 (fun site => ora site (.immediate b)) s

/-- `ORA nn` (R127). -/
def execOraZeroPage (b : Byte) (s : State) : Result := runHandler 0x05 2 (fun site => ora site (.zeroPage b)) s

/-- `ORA nn,X` (R127). -/
def execOraZeroPageX (b : Byte) (s : State) : Result := runHandler 0x15 2 (fun site => ora site (.zeroPageX b)) s

/-- `ORA nnnn` (R127). -/
def execOraAbsolute (w : Addr) (s : State) : Result := runHandler 0x0D 3 (fun site => ora site (.absolute w)) s

/-- `ORA nnnn,X` (R127). -/
def execOraAbsoluteX (w : Addr) (s : State) : Result := runHandler 0x1D 3 (fun site => ora site (.absoluteX w)) s

/-- `ORA nnnn,Y` (R127). -/
def execOraAbsoluteY (w : Addr) (s : State) : Result := runHandler 0x19 3 (fun site => ora site (.absoluteY w)) s

/-- `ORA (nn,X)` (R127). -/
def execOraIndirectX (b : Byte) (s : State) : Result := runHandler 0x01 2 (fun site => ora site (.indirectX b)) s

/-- `ORA (nn),Y` (R127). -/
def execOraIndirectY (b : Byte) (s : State) : Result := runHandler 0x11 2 (fun site => ora site (.indirectY b)) s

/-- `EOR #nn` (R128). -/
def execEorImmediate (b : Byte) (s : State) : Result := runHandler 0x49 2 (fun site => eor site (.immediate b)) s

/-- `EOR nn` (R128). -/
def execEorZeroPage (b : Byte) (s : State) : Result := runHandler 0x45 2 (fun site => eor site (.zeroPage b)) s

/-- `EOR nn,X` (R128). -/
def execEorZeroPageX (b : Byte) (s : State) : Result := runHandler 0x55 2 (fun site => eor site (.zeroPageX b)) s

/-- `EOR nnnn` (R128). -/
def execEorAbsolute (w : Addr) (s : State) : Result := runHandler 0x4D 3 (fun site => eor site (.absolute w)) s

/-- `EOR nnnn,X` (R128). -/
def execEorAbsoluteX (w : Addr) (s : State) : Result := runHandler 0x5D 3 (fun site => eor site (.absoluteX w)) s

/-- `EOR nnnn,Y` (R128). -/
def execEorAbsoluteY (w : Addr) (s : State) : Result := runHandler 0x59 3 (fun site => eor site (.absoluteY w)) s

/-- `EOR (nn,X)` (R128). -/
def execEorIndirectX (b : Byte) (s : State) : Result := runHandler 0x41 2 (fun site => eor site (.indirectX b)) s

/-- `EOR (nn),Y` (R128). -/
def execEorIndirectY (b : Byte) (s : State) : Result := runHandler 0x51 2 (fun site => eor site (.indirectY b)) s

end Sys2Proof.Machine
end

