-- ==== Sys2Proof/Machine/Halt.lean ====
section
/-! DEFINITION. BRK, the normal halt (spec/42_execution_loop.md R98). It is no trap and no software interrupt
(60_exceptions.md R138). -/

namespace Sys2Proof.Machine

/-- BRK as a handler, for a ROM that tags it otherwise than Halt (log 19). -/
def brk (_site : FetchSite) (_o : Operand) (s : State) : Result := .next s.halt

/-- `BRK` (R98): PC moves past the opcode, `status <- Halted`, and the loop returns before the advance of R93. No register,
flag or memory byte changes. UNVERIFIED: PC = pc0 + 1 is the spec's own decision D13 (log 14). -/
def execBrk (s : State) : Result := .next s.atOperand.halt

end Sys2Proof.Machine
end

