-- ==== Sys2Proof/Machine/IncDec.lean ====
section
/-! DEFINITION. Increment and decrement (spec/46_incdec.md R113 to R119): one handler per mnemonic, over any
operand, and one meaning per row of the opcode table, which runs the handler as the execution loop does
(42_execution_loop.md R93, R94) with the row's opcode, length and operand. In a handler the state's PC is at the operand. -/

namespace Sys2Proof.Machine

/-- INC: `ea <- EA(mode); r <- inc8(MemRead(ea, 1)); MemWrite(ea, 1, r); update_zero_and_negative(r)` (R114). -/
def inc (site : FetchSite) (o : Operand) (s : State) : Result :=
  withEA site o s fun ea =>
    let r := inc8 (s.read ea)
    .next ((s.write ea r).updateZN r)

/-- DEC: as INC with `dec8` (R115). -/
def dec (site : FetchSite) (o : Operand) (s : State) : Result :=
  withEA site o s fun ea =>
    let r := dec8 (s.read ea)
    .next ((s.write ea r).updateZN r)

/-- INX: `X <- inc8(X); update_zero_and_negative(X)` (R116). -/
def inx (_site : FetchSite) (_o : Operand) (s : State) : Result := .next ((s.setX (inc8 s.x)).updateZN (inc8 s.x))

/-- DEX: `X <- dec8(X); update_zero_and_negative(X)` (R117). -/
def dex (_site : FetchSite) (_o : Operand) (s : State) : Result := .next ((s.setX (dec8 s.x)).updateZN (dec8 s.x))

/-- INY: `Y <- inc8(Y); update_zero_and_negative(Y)` (R118). -/
def iny (_site : FetchSite) (_o : Operand) (s : State) : Result := .next ((s.setY (inc8 s.y)).updateZN (inc8 s.y))

/-- DEY: `Y <- dec8(Y); update_zero_and_negative(Y)` (R119). -/
def dey (_site : FetchSite) (_o : Operand) (s : State) : Result := .next ((s.setY (dec8 s.y)).updateZN (dec8 s.y))

/-! ## The rows -/

/-- `INC nn` (R114). -/
def execIncZeroPage (b : Byte) (s : State) : Result := runHandler 0xE6 2 (fun site => inc site (.zeroPage b)) s

/-- `INC nn,X` (R114). -/
def execIncZeroPageX (b : Byte) (s : State) : Result := runHandler 0xF6 2 (fun site => inc site (.zeroPageX b)) s

/-- `INC nnnn` (R114). -/
def execIncAbsolute (w : Addr) (s : State) : Result := runHandler 0xEE 3 (fun site => inc site (.absolute w)) s

/-- `INC nnnn,X` (R114). -/
def execIncAbsoluteX (w : Addr) (s : State) : Result := runHandler 0xFE 3 (fun site => inc site (.absoluteX w)) s

/-- `DEC nn` (R115). -/
def execDecZeroPage (b : Byte) (s : State) : Result := runHandler 0xC6 2 (fun site => dec site (.zeroPage b)) s

/-- `DEC nn,X` (R115). -/
def execDecZeroPageX (b : Byte) (s : State) : Result := runHandler 0xD6 2 (fun site => dec site (.zeroPageX b)) s

/-- `DEC nnnn` (R115). -/
def execDecAbsolute (w : Addr) (s : State) : Result := runHandler 0xCE 3 (fun site => dec site (.absolute w)) s

/-- `DEC nnnn,X` (R115). -/
def execDecAbsoluteX (w : Addr) (s : State) : Result := runHandler 0xDE 3 (fun site => dec site (.absoluteX w)) s

/-- `INX` (R116). -/
def execInx (s : State) : Result := runHandler 0xE8 1 (fun site => inx site .implicit) s

/-- `DEX` (R117). -/
def execDex (s : State) : Result := runHandler 0xCA 1 (fun site => dex site .implicit) s

/-- `INY` (R118). -/
def execIny (s : State) : Result := runHandler 0xC8 1 (fun site => iny site .implicit) s

/-- `DEY` (R119). -/
def execDey (s : State) : Result := runHandler 0x88 1 (fun site => dey site .implicit) s

end Sys2Proof.Machine
end

