-- ==== Sys2Proof/Machine/LoadStore.lean ====
section
/-! DEFINITION. Load and store instructions (spec/43_load_store.md R99 to R105): one handler per mnemonic, over any
operand, and one meaning per row of the opcode table, which runs the handler as the execution loop does
(42_execution_loop.md R93, R94) with the row's opcode, length and operand. In a handler the state's PC is at the operand. -/

namespace Sys2Proof.Machine

/-- LDA: `m <- Operand(mode); A <- m; update_zero_and_negative(A)` (R100). -/
def lda (site : FetchSite) (o : Operand) (s : State) : Result :=
  withOperand site o s fun m => .next ((s.setA m).updateZN m)

/-- LDX: `m <- Operand(mode); X <- m; update_zero_and_negative(X)` (R101). -/
def ldx (site : FetchSite) (o : Operand) (s : State) : Result :=
  withOperand site o s fun m => .next ((s.setX m).updateZN m)

/-- LDY: `m <- Operand(mode); Y <- m; update_zero_and_negative(Y)` (R102). -/
def ldy (site : FetchSite) (o : Operand) (s : State) : Result :=
  withOperand site o s fun m => .next ((s.setY m).updateZN m)

/-- STA: `ea <- EA(mode); MemWrite(ea, 1, A)`; no flag (R103). -/
def sta (site : FetchSite) (o : Operand) (s : State) : Result :=
  withEA site o s fun ea => .next (s.write ea s.a)

/-- STX: `ea <- EA(mode); MemWrite(ea, 1, X)`; no flag (R104). -/
def stx (site : FetchSite) (o : Operand) (s : State) : Result :=
  withEA site o s fun ea => .next (s.write ea s.x)

/-- STY: `ea <- EA(mode); MemWrite(ea, 1, Y)`; no flag (R105). -/
def sty (site : FetchSite) (o : Operand) (s : State) : Result :=
  withEA site o s fun ea => .next (s.write ea s.y)

/-! ## The rows -/

/-- `LDA #nn` (R100). -/
def execLdaImmediate (b : Byte) (s : State) : Result := runHandler 0xA9 2 (fun site => lda site (.immediate b)) s

/-- `LDA nn` (R100). -/
def execLdaZeroPage (b : Byte) (s : State) : Result := runHandler 0xA5 2 (fun site => lda site (.zeroPage b)) s

/-- `LDA nn,X` (R100). -/
def execLdaZeroPageX (b : Byte) (s : State) : Result := runHandler 0xB5 2 (fun site => lda site (.zeroPageX b)) s

/-- `LDA nnnn` (R100). -/
def execLdaAbsolute (w : Addr) (s : State) : Result := runHandler 0xAD 3 (fun site => lda site (.absolute w)) s

/-- `LDA nnnn,X` (R100). -/
def execLdaAbsoluteX (w : Addr) (s : State) : Result := runHandler 0xBD 3 (fun site => lda site (.absoluteX w)) s

/-- `LDA nnnn,Y` (R100). -/
def execLdaAbsoluteY (w : Addr) (s : State) : Result := runHandler 0xB9 3 (fun site => lda site (.absoluteY w)) s

/-- `LDA (nn,X)` (R100). -/
def execLdaIndirectX (b : Byte) (s : State) : Result := runHandler 0xA1 2 (fun site => lda site (.indirectX b)) s

/-- `LDA (nn),Y` (R100). -/
def execLdaIndirectY (b : Byte) (s : State) : Result := runHandler 0xB1 2 (fun site => lda site (.indirectY b)) s

/-- `LDX #nn` (R101). -/
def execLdxImmediate (b : Byte) (s : State) : Result := runHandler 0xA2 2 (fun site => ldx site (.immediate b)) s

/-- `LDX nn` (R101). -/
def execLdxZeroPage (b : Byte) (s : State) : Result := runHandler 0xA6 2 (fun site => ldx site (.zeroPage b)) s

/-- `LDX nn,Y` (R101). -/
def execLdxZeroPageY (b : Byte) (s : State) : Result := runHandler 0xB6 2 (fun site => ldx site (.zeroPageY b)) s

/-- `LDX nnnn` (R101). -/
def execLdxAbsolute (w : Addr) (s : State) : Result := runHandler 0xAE 3 (fun site => ldx site (.absolute w)) s

/-- `LDX nnnn,Y` (R101). -/
def execLdxAbsoluteY (w : Addr) (s : State) : Result := runHandler 0xBE 3 (fun site => ldx site (.absoluteY w)) s

/-- `LDY #nn` (R102). -/
def execLdyImmediate (b : Byte) (s : State) : Result := runHandler 0xA0 2 (fun site => ldy site (.immediate b)) s

/-- `LDY nn` (R102). -/
def execLdyZeroPage (b : Byte) (s : State) : Result := runHandler 0xA4 2 (fun site => ldy site (.zeroPage b)) s

/-- `LDY nn,X` (R102). -/
def execLdyZeroPageX (b : Byte) (s : State) : Result := runHandler 0xB4 2 (fun site => ldy site (.zeroPageX b)) s

/-- `LDY nnnn` (R102). -/
def execLdyAbsolute (w : Addr) (s : State) : Result := runHandler 0xAC 3 (fun site => ldy site (.absolute w)) s

/-- `LDY nnnn,X` (R102). -/
def execLdyAbsoluteX (w : Addr) (s : State) : Result := runHandler 0xBC 3 (fun site => ldy site (.absoluteX w)) s

/-- `STA nn` (R103). -/
def execStaZeroPage (b : Byte) (s : State) : Result := runHandler 0x85 2 (fun site => sta site (.zeroPage b)) s

/-- `STA nn,X` (R103). -/
def execStaZeroPageX (b : Byte) (s : State) : Result := runHandler 0x95 2 (fun site => sta site (.zeroPageX b)) s

/-- `STA nnnn` (R103). -/
def execStaAbsolute (w : Addr) (s : State) : Result := runHandler 0x8D 3 (fun site => sta site (.absolute w)) s

/-- `STA nnnn,X` (R103). -/
def execStaAbsoluteX (w : Addr) (s : State) : Result := runHandler 0x9D 3 (fun site => sta site (.absoluteX w)) s

/-- `STA nnnn,Y` (R103). -/
def execStaAbsoluteY (w : Addr) (s : State) : Result := runHandler 0x99 3 (fun site => sta site (.absoluteY w)) s

/-- `STA (nn,X)` (R103). -/
def execStaIndirectX (b : Byte) (s : State) : Result := runHandler 0x81 2 (fun site => sta site (.indirectX b)) s

/-- `STA (nn),Y` (R103). -/
def execStaIndirectY (b : Byte) (s : State) : Result := runHandler 0x91 2 (fun site => sta site (.indirectY b)) s

/-- `STX nn` (R104). -/
def execStxZeroPage (b : Byte) (s : State) : Result := runHandler 0x86 2 (fun site => stx site (.zeroPage b)) s

/-- `STX nn,Y` (R104). -/
def execStxZeroPageY (b : Byte) (s : State) : Result := runHandler 0x96 2 (fun site => stx site (.zeroPageY b)) s

/-- `STX nnnn` (R104). -/
def execStxAbsolute (w : Addr) (s : State) : Result := runHandler 0x8E 3 (fun site => stx site (.absolute w)) s

/-- `STY nn` (R105). -/
def execStyZeroPage (b : Byte) (s : State) : Result := runHandler 0x84 2 (fun site => sty site (.zeroPage b)) s

/-- `STY nn,X` (R105). -/
def execStyZeroPageX (b : Byte) (s : State) : Result := runHandler 0x94 2 (fun site => sty site (.zeroPageX b)) s

/-- `STY nnnn` (R105). -/
def execStyAbsolute (w : Addr) (s : State) : Result := runHandler 0x8C 3 (fun site => sty site (.absolute w)) s

end Sys2Proof.Machine
end

