-- ==== Sys2Proof/Machine/Shift.lean ====
section
/-! DEFINITION. Shift and rotate (spec/47_shift_rotate.md R120 to R124): one handler per mnemonic, over any
operand, and one meaning per row of the opcode table, which runs the handler as the execution loop does
(42_execution_loop.md R93, R94) with the row's opcode, length and operand. In a handler the state's PC is at the operand. -/

namespace Sys2Proof.Machine

/-- The shape of every shift and rotate (R120): `f` takes the byte and P.C, sampled before P.C is written, and gives the
result and the bit shifted out. Accumulator mode works on A, every other mode on the byte at `EA(mode)`. -/
def shiftForm (f : Byte → Bool → Byte × Bool) (site : FetchSite) (o : Operand) (s : State) : Result :=
  if o.mode = .accumulator then
    let out := f s.a (s.flag .C)
    .next (((s.setA out.1).setFlag .C out.2).updateZN out.1)
  else
    withEA site o s fun ea =>
      let out := f (s.read ea) (s.flag .C)
      .next (((s.write ea out.1).setFlag .C out.2).updateZN out.1)

/-- ASL: `shiftForm` with `asl8` (R121). -/
def asl (site : FetchSite) (o : Operand) (s : State) : Result := shiftForm asl8 site o s

/-- LSR: `shiftForm` with `lsr8` (R122). -/
def lsr (site : FetchSite) (o : Operand) (s : State) : Result := shiftForm lsr8 site o s

/-- ROL: `shiftForm` with `rol8` (R123). -/
def rol (site : FetchSite) (o : Operand) (s : State) : Result := shiftForm rol8 site o s

/-- ROR: `shiftForm` with `ror8` (R124). -/
def ror (site : FetchSite) (o : Operand) (s : State) : Result := shiftForm ror8 site o s

/-! ## The rows -/

/-- `ASL A` (R121). -/
def execAslAccumulator (s : State) : Result := runHandler 0x0A 1 (fun site => asl site .accumulator) s

/-- `ASL nn` (R121). -/
def execAslZeroPage (b : Byte) (s : State) : Result := runHandler 0x06 2 (fun site => asl site (.zeroPage b)) s

/-- `ASL nn,X` (R121). -/
def execAslZeroPageX (b : Byte) (s : State) : Result := runHandler 0x16 2 (fun site => asl site (.zeroPageX b)) s

/-- `ASL nnnn` (R121). -/
def execAslAbsolute (w : Addr) (s : State) : Result := runHandler 0x0E 3 (fun site => asl site (.absolute w)) s

/-- `ASL nnnn,X` (R121). -/
def execAslAbsoluteX (w : Addr) (s : State) : Result := runHandler 0x1E 3 (fun site => asl site (.absoluteX w)) s

/-- `LSR A` (R122). -/
def execLsrAccumulator (s : State) : Result := runHandler 0x4A 1 (fun site => lsr site .accumulator) s

/-- `LSR nn` (R122). -/
def execLsrZeroPage (b : Byte) (s : State) : Result := runHandler 0x46 2 (fun site => lsr site (.zeroPage b)) s

/-- `LSR nn,X` (R122). -/
def execLsrZeroPageX (b : Byte) (s : State) : Result := runHandler 0x56 2 (fun site => lsr site (.zeroPageX b)) s

/-- `LSR nnnn` (R122). -/
def execLsrAbsolute (w : Addr) (s : State) : Result := runHandler 0x4E 3 (fun site => lsr site (.absolute w)) s

/-- `LSR nnnn,X` (R122). -/
def execLsrAbsoluteX (w : Addr) (s : State) : Result := runHandler 0x5E 3 (fun site => lsr site (.absoluteX w)) s

/-- `ROL A` (R123). -/
def execRolAccumulator (s : State) : Result := runHandler 0x2A 1 (fun site => rol site .accumulator) s

/-- `ROL nn` (R123). -/
def execRolZeroPage (b : Byte) (s : State) : Result := runHandler 0x26 2 (fun site => rol site (.zeroPage b)) s

/-- `ROL nn,X` (R123). -/
def execRolZeroPageX (b : Byte) (s : State) : Result := runHandler 0x36 2 (fun site => rol site (.zeroPageX b)) s

/-- `ROL nnnn` (R123). -/
def execRolAbsolute (w : Addr) (s : State) : Result := runHandler 0x2E 3 (fun site => rol site (.absolute w)) s

/-- `ROL nnnn,X` (R123). -/
def execRolAbsoluteX (w : Addr) (s : State) : Result := runHandler 0x3E 3 (fun site => rol site (.absoluteX w)) s

/-- `ROR A` (R124). -/
def execRorAccumulator (s : State) : Result := runHandler 0x6A 1 (fun site => ror site .accumulator) s

/-- `ROR nn` (R124). -/
def execRorZeroPage (b : Byte) (s : State) : Result := runHandler 0x66 2 (fun site => ror site (.zeroPage b)) s

/-- `ROR nn,X` (R124). -/
def execRorZeroPageX (b : Byte) (s : State) : Result := runHandler 0x76 2 (fun site => ror site (.zeroPageX b)) s

/-- `ROR nnnn` (R124). -/
def execRorAbsolute (w : Addr) (s : State) : Result := runHandler 0x6E 3 (fun site => ror site (.absolute w)) s

/-- `ROR nnnn,X` (R124). -/
def execRorAbsoluteX (w : Addr) (s : State) : Result := runHandler 0x7E 3 (fun site => ror site (.absoluteX w)) s

end Sys2Proof.Machine
end

