-- ==== Sys2Proof/Machine/Transfer.lean ====
section
/-! DEFINITION. Register transfer instructions (spec/44_transfer.md R106 to R110): one handler per mnemonic, over any
operand, and one meaning per row of the opcode table, which runs the handler as the execution loop does
(42_execution_loop.md R93, R94) with the row's opcode, length and operand. In a handler the state's PC is at the operand. -/

namespace Sys2Proof.Machine

/-- TAX: `X <- A; update_zero_and_negative(X)` (R107). -/
def tax (_site : FetchSite) (_o : Operand) (s : State) : Result := .next ((s.setX s.a).updateZN s.a)

/-- TXA: `A <- X; update_zero_and_negative(A)` (R108). -/
def txa (_site : FetchSite) (_o : Operand) (s : State) : Result := .next ((s.setA s.x).updateZN s.x)

/-- TAY: `Y <- A; update_zero_and_negative(Y)` (R109). -/
def tay (_site : FetchSite) (_o : Operand) (s : State) : Result := .next ((s.setY s.a).updateZN s.a)

/-- TYA: `A <- Y; update_zero_and_negative(A)` (R110). -/
def tya (_site : FetchSite) (_o : Operand) (s : State) : Result := .next ((s.setA s.y).updateZN s.y)

/-! ## The rows -/

/-- `TAX` (R107). -/
def execTax (s : State) : Result := runHandler 0xAA 1 (fun site => tax site .implicit) s

/-- `TXA` (R108). -/
def execTxa (s : State) : Result := runHandler 0x8A 1 (fun site => txa site .implicit) s

/-- `TAY` (R109). -/
def execTay (s : State) : Result := runHandler 0xA8 1 (fun site => tay site .implicit) s

/-- `TYA` (R110). -/
def execTya (s : State) : Result := runHandler 0x98 1 (fun site => tya site .implicit) s

end Sys2Proof.Machine
end

