-- ==== Sys2Proof/Machine/Dispatch.lean ====
section
/-! DEFINITION. One arm per instruction: the meaning it calls (spec/42_execution_loop.md R94). -/

namespace Sys2Proof.Machine

def exec (i : Instr) (s : State) : Host.Outcome State Fault Refusal :=
  match i with
  | .ldaImmediate b => Sys2Proof.Machine.execLdaImmediate b s
  | .ldaZeroPage b => Sys2Proof.Machine.execLdaZeroPage b s
  | .ldaZeroPageX b => Sys2Proof.Machine.execLdaZeroPageX b s
  | .ldaAbsolute w => Sys2Proof.Machine.execLdaAbsolute w s
  | .ldaAbsoluteX w => Sys2Proof.Machine.execLdaAbsoluteX w s
  | .ldaAbsoluteY w => Sys2Proof.Machine.execLdaAbsoluteY w s
  | .ldaIndirectX b => Sys2Proof.Machine.execLdaIndirectX b s
  | .ldaIndirectY b => Sys2Proof.Machine.execLdaIndirectY b s
  | .ldxImmediate b => Sys2Proof.Machine.execLdxImmediate b s
  | .ldxZeroPage b => Sys2Proof.Machine.execLdxZeroPage b s
  | .ldxZeroPageY b => Sys2Proof.Machine.execLdxZeroPageY b s
  | .ldxAbsolute w => Sys2Proof.Machine.execLdxAbsolute w s
  | .ldxAbsoluteY w => Sys2Proof.Machine.execLdxAbsoluteY w s
  | .ldyImmediate b => Sys2Proof.Machine.execLdyImmediate b s
  | .ldyZeroPage b => Sys2Proof.Machine.execLdyZeroPage b s
  | .ldyZeroPageX b => Sys2Proof.Machine.execLdyZeroPageX b s
  | .ldyAbsolute w => Sys2Proof.Machine.execLdyAbsolute w s
  | .ldyAbsoluteX w => Sys2Proof.Machine.execLdyAbsoluteX w s
  | .staZeroPage b => Sys2Proof.Machine.execStaZeroPage b s
  | .staZeroPageX b => Sys2Proof.Machine.execStaZeroPageX b s
  | .staAbsolute w => Sys2Proof.Machine.execStaAbsolute w s
  | .staAbsoluteX w => Sys2Proof.Machine.execStaAbsoluteX w s
  | .staAbsoluteY w => Sys2Proof.Machine.execStaAbsoluteY w s
  | .staIndirectX b => Sys2Proof.Machine.execStaIndirectX b s
  | .staIndirectY b => Sys2Proof.Machine.execStaIndirectY b s
  | .stxZeroPage b => Sys2Proof.Machine.execStxZeroPage b s
  | .stxZeroPageY b => Sys2Proof.Machine.execStxZeroPageY b s
  | .stxAbsolute w => Sys2Proof.Machine.execStxAbsolute w s
  | .styZeroPage b => Sys2Proof.Machine.execStyZeroPage b s
  | .styZeroPageX b => Sys2Proof.Machine.execStyZeroPageX b s
  | .styAbsolute w => Sys2Proof.Machine.execStyAbsolute w s
  | .tax => Sys2Proof.Machine.execTax s
  | .txa => Sys2Proof.Machine.execTxa s
  | .tay => Sys2Proof.Machine.execTay s
  | .tya => Sys2Proof.Machine.execTya s
  | .adcImmediate b => Sys2Proof.Machine.execAdcImmediate b s
  | .adcZeroPage b => Sys2Proof.Machine.execAdcZeroPage b s
  | .adcZeroPageX b => Sys2Proof.Machine.execAdcZeroPageX b s
  | .adcAbsolute w => Sys2Proof.Machine.execAdcAbsolute w s
  | .adcAbsoluteX w => Sys2Proof.Machine.execAdcAbsoluteX w s
  | .adcAbsoluteY w => Sys2Proof.Machine.execAdcAbsoluteY w s
  | .adcIndirectX b => Sys2Proof.Machine.execAdcIndirectX b s
  | .adcIndirectY b => Sys2Proof.Machine.execAdcIndirectY b s
  | .sbcImmediate b => Sys2Proof.Machine.execSbcImmediate b s
  | .sbcZeroPage b => Sys2Proof.Machine.execSbcZeroPage b s
  | .sbcZeroPageX b => Sys2Proof.Machine.execSbcZeroPageX b s
  | .sbcAbsolute w => Sys2Proof.Machine.execSbcAbsolute w s
  | .sbcAbsoluteX w => Sys2Proof.Machine.execSbcAbsoluteX w s
  | .sbcAbsoluteY w => Sys2Proof.Machine.execSbcAbsoluteY w s
  | .sbcIndirectX b => Sys2Proof.Machine.execSbcIndirectX b s
  | .sbcIndirectY b => Sys2Proof.Machine.execSbcIndirectY b s
  | .incZeroPage b => Sys2Proof.Machine.execIncZeroPage b s
  | .incZeroPageX b => Sys2Proof.Machine.execIncZeroPageX b s
  | .incAbsolute w => Sys2Proof.Machine.execIncAbsolute w s
  | .incAbsoluteX w => Sys2Proof.Machine.execIncAbsoluteX w s
  | .decZeroPage b => Sys2Proof.Machine.execDecZeroPage b s
  | .decZeroPageX b => Sys2Proof.Machine.execDecZeroPageX b s
  | .decAbsolute w => Sys2Proof.Machine.execDecAbsolute w s
  | .decAbsoluteX w => Sys2Proof.Machine.execDecAbsoluteX w s
  | .inx => Sys2Proof.Machine.execInx s
  | .dex => Sys2Proof.Machine.execDex s
  | .iny => Sys2Proof.Machine.execIny s
  | .dey => Sys2Proof.Machine.execDey s
  | .aslAccumulator => Sys2Proof.Machine.execAslAccumulator s
  | .aslZeroPage b => Sys2Proof.Machine.execAslZeroPage b s
  | .aslZeroPageX b => Sys2Proof.Machine.execAslZeroPageX b s
  | .aslAbsolute w => Sys2Proof.Machine.execAslAbsolute w s
  | .aslAbsoluteX w => Sys2Proof.Machine.execAslAbsoluteX w s
  | .lsrAccumulator => Sys2Proof.Machine.execLsrAccumulator s
  | .lsrZeroPage b => Sys2Proof.Machine.execLsrZeroPage b s
  | .lsrZeroPageX b => Sys2Proof.Machine.execLsrZeroPageX b s
  | .lsrAbsolute w => Sys2Proof.Machine.execLsrAbsolute w s
  | .lsrAbsoluteX w => Sys2Proof.Machine.execLsrAbsoluteX w s
  | .rolAccumulator => Sys2Proof.Machine.execRolAccumulator s
  | .rolZeroPage b => Sys2Proof.Machine.execRolZeroPage b s
  | .rolZeroPageX b => Sys2Proof.Machine.execRolZeroPageX b s
  | .rolAbsolute w => Sys2Proof.Machine.execRolAbsolute w s
  | .rolAbsoluteX w => Sys2Proof.Machine.execRolAbsoluteX w s
  | .rorAccumulator => Sys2Proof.Machine.execRorAccumulator s
  | .rorZeroPage b => Sys2Proof.Machine.execRorZeroPage b s
  | .rorZeroPageX b => Sys2Proof.Machine.execRorZeroPageX b s
  | .rorAbsolute w => Sys2Proof.Machine.execRorAbsolute w s
  | .rorAbsoluteX w => Sys2Proof.Machine.execRorAbsoluteX w s
  | .andImmediate b => Sys2Proof.Machine.execAndImmediate b s
  | .andZeroPage b => Sys2Proof.Machine.execAndZeroPage b s
  | .andZeroPageX b => Sys2Proof.Machine.execAndZeroPageX b s
  | .andAbsolute w => Sys2Proof.Machine.execAndAbsolute w s
  | .andAbsoluteX w => Sys2Proof.Machine.execAndAbsoluteX w s
  | .andAbsoluteY w => Sys2Proof.Machine.execAndAbsoluteY w s
  | .andIndirectX b => Sys2Proof.Machine.execAndIndirectX b s
  | .andIndirectY b => Sys2Proof.Machine.execAndIndirectY b s
  | .oraImmediate b => Sys2Proof.Machine.execOraImmediate b s
  | .oraZeroPage b => Sys2Proof.Machine.execOraZeroPage b s
  | .oraZeroPageX b => Sys2Proof.Machine.execOraZeroPageX b s
  | .oraAbsolute w => Sys2Proof.Machine.execOraAbsolute w s
  | .oraAbsoluteX w => Sys2Proof.Machine.execOraAbsoluteX w s
  | .oraAbsoluteY w => Sys2Proof.Machine.execOraAbsoluteY w s
  | .oraIndirectX b => Sys2Proof.Machine.execOraIndirectX b s
  | .oraIndirectY b => Sys2Proof.Machine.execOraIndirectY b s
  | .eorImmediate b => Sys2Proof.Machine.execEorImmediate b s
  | .eorZeroPage b => Sys2Proof.Machine.execEorZeroPage b s
  | .eorZeroPageX b => Sys2Proof.Machine.execEorZeroPageX b s
  | .eorAbsolute w => Sys2Proof.Machine.execEorAbsolute w s
  | .eorAbsoluteX w => Sys2Proof.Machine.execEorAbsoluteX w s
  | .eorAbsoluteY w => Sys2Proof.Machine.execEorAbsoluteY w s
  | .eorIndirectX b => Sys2Proof.Machine.execEorIndirectX b s
  | .eorIndirectY b => Sys2Proof.Machine.execEorIndirectY b s
  | .brk => Sys2Proof.Machine.execBrk s

end Sys2Proof.Machine
end

