-- ==== Sys2Proof/Decode.lean ====
section
/-! DEFINITION. The opcode ROM, the decoder and the encoder (spec/30_encoding.md). Decode is a lookup of the opcode byte in
the ROM, with no field decoding of its bits (R48, R55); the encoder is written from the Encoding lines of the family files
(43_load_store.md to 48_bitwise.md, 42_execution_loop.md R98), not from the ROM. UNVERIFIED: every opcode byte but 0x00,
and every mnemonic's set of modes, is the spec's own decision D1 (log 7). -/

namespace Sys2Proof

/-! ## The opcode ROM (R50): opcode, mnemonic, family, mode, length, base cycles (informational) -/

/-- The rows of LDA (R50). -/
def romLda : List Descriptor :=
  [⟨0xA9, .LDA, .access, .immediate, 2, 2⟩,
   ⟨0xA5, .LDA, .access, .zeroPage, 2, 3⟩,
   ⟨0xB5, .LDA, .access, .zeroPageX, 2, 4⟩,
   ⟨0xAD, .LDA, .access, .absolute, 3, 4⟩,
   ⟨0xBD, .LDA, .access, .absoluteX, 3, 4⟩,
   ⟨0xB9, .LDA, .access, .absoluteY, 3, 4⟩,
   ⟨0xA1, .LDA, .access, .indirectX, 2, 6⟩,
   ⟨0xB1, .LDA, .access, .indirectY, 2, 5⟩]

/-- The rows of LDX (R50). -/
def romLdx : List Descriptor :=
  [⟨0xA2, .LDX, .access, .immediate, 2, 2⟩,
   ⟨0xA6, .LDX, .access, .zeroPage, 2, 3⟩,
   ⟨0xB6, .LDX, .access, .zeroPageY, 2, 4⟩,
   ⟨0xAE, .LDX, .access, .absolute, 3, 4⟩,
   ⟨0xBE, .LDX, .access, .absoluteY, 3, 4⟩]

/-- The rows of LDY (R50). -/
def romLdy : List Descriptor :=
  [⟨0xA0, .LDY, .access, .immediate, 2, 2⟩,
   ⟨0xA4, .LDY, .access, .zeroPage, 2, 3⟩,
   ⟨0xB4, .LDY, .access, .zeroPageX, 2, 4⟩,
   ⟨0xAC, .LDY, .access, .absolute, 3, 4⟩,
   ⟨0xBC, .LDY, .access, .absoluteX, 3, 4⟩]

/-- The rows of STA (R50). -/
def romSta : List Descriptor :=
  [⟨0x85, .STA, .access, .zeroPage, 2, 3⟩,
   ⟨0x95, .STA, .access, .zeroPageX, 2, 4⟩,
   ⟨0x8D, .STA, .access, .absolute, 3, 4⟩,
   ⟨0x9D, .STA, .access, .absoluteX, 3, 5⟩,
   ⟨0x99, .STA, .access, .absoluteY, 3, 5⟩,
   ⟨0x81, .STA, .access, .indirectX, 2, 6⟩,
   ⟨0x91, .STA, .access, .indirectY, 2, 6⟩]

/-- The rows of STX (R50). -/
def romStx : List Descriptor :=
  [⟨0x86, .STX, .access, .zeroPage, 2, 3⟩,
   ⟨0x96, .STX, .access, .zeroPageY, 2, 4⟩,
   ⟨0x8E, .STX, .access, .absolute, 3, 4⟩]

/-- The rows of STY (R50). -/
def romSty : List Descriptor :=
  [⟨0x84, .STY, .access, .zeroPage, 2, 3⟩,
   ⟨0x94, .STY, .access, .zeroPageX, 2, 4⟩,
   ⟨0x8C, .STY, .access, .absolute, 3, 4⟩]

/-- The rows of TAX (R50). -/
def romTax : List Descriptor :=
  [⟨0xAA, .TAX, .transfer, .implicit, 1, 2⟩]

/-- The rows of TXA (R50). -/
def romTxa : List Descriptor :=
  [⟨0x8A, .TXA, .transfer, .implicit, 1, 2⟩]

/-- The rows of TAY (R50). -/
def romTay : List Descriptor :=
  [⟨0xA8, .TAY, .transfer, .implicit, 1, 2⟩]

/-- The rows of TYA (R50). -/
def romTya : List Descriptor :=
  [⟨0x98, .TYA, .transfer, .implicit, 1, 2⟩]

/-- The rows of ADC (R50). -/
def romAdc : List Descriptor :=
  [⟨0x69, .ADC, .arithmetic, .immediate, 2, 2⟩,
   ⟨0x65, .ADC, .arithmetic, .zeroPage, 2, 3⟩,
   ⟨0x75, .ADC, .arithmetic, .zeroPageX, 2, 4⟩,
   ⟨0x6D, .ADC, .arithmetic, .absolute, 3, 4⟩,
   ⟨0x7D, .ADC, .arithmetic, .absoluteX, 3, 4⟩,
   ⟨0x79, .ADC, .arithmetic, .absoluteY, 3, 4⟩,
   ⟨0x61, .ADC, .arithmetic, .indirectX, 2, 6⟩,
   ⟨0x71, .ADC, .arithmetic, .indirectY, 2, 5⟩]

/-- The rows of SBC (R50). -/
def romSbc : List Descriptor :=
  [⟨0xE9, .SBC, .arithmetic, .immediate, 2, 2⟩,
   ⟨0xE5, .SBC, .arithmetic, .zeroPage, 2, 3⟩,
   ⟨0xF5, .SBC, .arithmetic, .zeroPageX, 2, 4⟩,
   ⟨0xED, .SBC, .arithmetic, .absolute, 3, 4⟩,
   ⟨0xFD, .SBC, .arithmetic, .absoluteX, 3, 4⟩,
   ⟨0xF9, .SBC, .arithmetic, .absoluteY, 3, 4⟩,
   ⟨0xE1, .SBC, .arithmetic, .indirectX, 2, 6⟩,
   ⟨0xF1, .SBC, .arithmetic, .indirectY, 2, 5⟩]

/-- The rows of INC (R50). -/
def romInc : List Descriptor :=
  [⟨0xE6, .INC, .arithmetic, .zeroPage, 2, 5⟩,
   ⟨0xF6, .INC, .arithmetic, .zeroPageX, 2, 6⟩,
   ⟨0xEE, .INC, .arithmetic, .absolute, 3, 6⟩,
   ⟨0xFE, .INC, .arithmetic, .absoluteX, 3, 7⟩]

/-- The rows of DEC (R50). -/
def romDec : List Descriptor :=
  [⟨0xC6, .DEC, .arithmetic, .zeroPage, 2, 5⟩,
   ⟨0xD6, .DEC, .arithmetic, .zeroPageX, 2, 6⟩,
   ⟨0xCE, .DEC, .arithmetic, .absolute, 3, 6⟩,
   ⟨0xDE, .DEC, .arithmetic, .absoluteX, 3, 7⟩]

/-- The rows of INX (R50). -/
def romInx : List Descriptor :=
  [⟨0xE8, .INX, .arithmetic, .implicit, 1, 2⟩]

/-- The rows of DEX (R50). -/
def romDex : List Descriptor :=
  [⟨0xCA, .DEX, .arithmetic, .implicit, 1, 2⟩]

/-- The rows of INY (R50). -/
def romIny : List Descriptor :=
  [⟨0xC8, .INY, .arithmetic, .implicit, 1, 2⟩]

/-- The rows of DEY (R50). -/
def romDey : List Descriptor :=
  [⟨0x88, .DEY, .arithmetic, .implicit, 1, 2⟩]

/-- The rows of ASL (R50). -/
def romAsl : List Descriptor :=
  [⟨0x0A, .ASL, .shift, .accumulator, 1, 2⟩,
   ⟨0x06, .ASL, .shift, .zeroPage, 2, 5⟩,
   ⟨0x16, .ASL, .shift, .zeroPageX, 2, 6⟩,
   ⟨0x0E, .ASL, .shift, .absolute, 3, 6⟩,
   ⟨0x1E, .ASL, .shift, .absoluteX, 3, 7⟩]

/-- The rows of LSR (R50). -/
def romLsr : List Descriptor :=
  [⟨0x4A, .LSR, .shift, .accumulator, 1, 2⟩,
   ⟨0x46, .LSR, .shift, .zeroPage, 2, 5⟩,
   ⟨0x56, .LSR, .shift, .zeroPageX, 2, 6⟩,
   ⟨0x4E, .LSR, .shift, .absolute, 3, 6⟩,
   ⟨0x5E, .LSR, .shift, .absoluteX, 3, 7⟩]

/-- The rows of ROL (R50). -/
def romRol : List Descriptor :=
  [⟨0x2A, .ROL, .shift, .accumulator, 1, 2⟩,
   ⟨0x26, .ROL, .shift, .zeroPage, 2, 5⟩,
   ⟨0x36, .ROL, .shift, .zeroPageX, 2, 6⟩,
   ⟨0x2E, .ROL, .shift, .absolute, 3, 6⟩,
   ⟨0x3E, .ROL, .shift, .absoluteX, 3, 7⟩]

/-- The rows of ROR (R50). -/
def romRor : List Descriptor :=
  [⟨0x6A, .ROR, .shift, .accumulator, 1, 2⟩,
   ⟨0x66, .ROR, .shift, .zeroPage, 2, 5⟩,
   ⟨0x76, .ROR, .shift, .zeroPageX, 2, 6⟩,
   ⟨0x6E, .ROR, .shift, .absolute, 3, 6⟩,
   ⟨0x7E, .ROR, .shift, .absoluteX, 3, 7⟩]

/-- The rows of AND (R50). -/
def romAnd : List Descriptor :=
  [⟨0x29, .AND, .bitwise, .immediate, 2, 2⟩,
   ⟨0x25, .AND, .bitwise, .zeroPage, 2, 3⟩,
   ⟨0x35, .AND, .bitwise, .zeroPageX, 2, 4⟩,
   ⟨0x2D, .AND, .bitwise, .absolute, 3, 4⟩,
   ⟨0x3D, .AND, .bitwise, .absoluteX, 3, 4⟩,
   ⟨0x39, .AND, .bitwise, .absoluteY, 3, 4⟩,
   ⟨0x21, .AND, .bitwise, .indirectX, 2, 6⟩,
   ⟨0x31, .AND, .bitwise, .indirectY, 2, 5⟩]

/-- The rows of ORA (R50). -/
def romOra : List Descriptor :=
  [⟨0x09, .ORA, .bitwise, .immediate, 2, 2⟩,
   ⟨0x05, .ORA, .bitwise, .zeroPage, 2, 3⟩,
   ⟨0x15, .ORA, .bitwise, .zeroPageX, 2, 4⟩,
   ⟨0x0D, .ORA, .bitwise, .absolute, 3, 4⟩,
   ⟨0x1D, .ORA, .bitwise, .absoluteX, 3, 4⟩,
   ⟨0x19, .ORA, .bitwise, .absoluteY, 3, 4⟩,
   ⟨0x01, .ORA, .bitwise, .indirectX, 2, 6⟩,
   ⟨0x11, .ORA, .bitwise, .indirectY, 2, 5⟩]

/-- The rows of EOR (R50). -/
def romEor : List Descriptor :=
  [⟨0x49, .EOR, .bitwise, .immediate, 2, 2⟩,
   ⟨0x45, .EOR, .bitwise, .zeroPage, 2, 3⟩,
   ⟨0x55, .EOR, .bitwise, .zeroPageX, 2, 4⟩,
   ⟨0x4D, .EOR, .bitwise, .absolute, 3, 4⟩,
   ⟨0x5D, .EOR, .bitwise, .absoluteX, 3, 4⟩,
   ⟨0x59, .EOR, .bitwise, .absoluteY, 3, 4⟩,
   ⟨0x41, .EOR, .bitwise, .indirectX, 2, 6⟩,
   ⟨0x51, .EOR, .bitwise, .indirectY, 2, 5⟩]

/-- The rows of BRK (R50). -/
def romBrk : List Descriptor :=
  [⟨0x00, .BRK, .halt, .implicit, 1, 7⟩]

/-- The eight rows that exist only with `HAS_EOR` (R53). -/
def romEorRows (hasEor : Bool) : List Descriptor := if hasEor then romEor else []

/-- `OPCODE_ROM` as a function of `HAS_EOR`: 108 rows with EOR, 100 without (R50, R53). -/
def opcodeRomWith (hasEor : Bool) : List Descriptor :=
  romLda ++ romLdx ++ romLdy ++ romSta ++ romStx ++ romSty ++ romTax ++ romTxa ++ romTay ++ romTya ++ romAdc ++
  romSbc ++ romInc ++ romDec ++ romInx ++ romDex ++ romIny ++ romDey ++ romAsl ++ romLsr ++ romRol ++ romRor ++
  romAnd ++ romOra ++ romEorRows hasEor ++ romBrk

/-- `OPCODE_ROM` of this hardware (R9, R50). "no runtime mutation": it is a constant, not state (10_state.md R24). -/
def opcodeRom : List Descriptor := opcodeRomWith Config.hasEor

/-- `OPCODE_ROM[op]`: the descriptor of an opcode byte, if it has one (R48). -/
def romLookup (rom : List Descriptor) (op : Byte) : Option Descriptor := rom.find? (fun d => d.opcode == op)

/-! ## From a mnemonic and an operand to an instruction -/

/-- The forms of LDA. -/
def formLda : Operand → Option Instr
  | .immediate b => some (.ldaImmediate b)
  | .zeroPage b => some (.ldaZeroPage b)
  | .zeroPageX b => some (.ldaZeroPageX b)
  | .absolute w => some (.ldaAbsolute w)
  | .absoluteX w => some (.ldaAbsoluteX w)
  | .absoluteY w => some (.ldaAbsoluteY w)
  | .indirectX b => some (.ldaIndirectX b)
  | .indirectY b => some (.ldaIndirectY b)
  | _ => none

/-- The forms of LDX. -/
def formLdx : Operand → Option Instr
  | .immediate b => some (.ldxImmediate b)
  | .zeroPage b => some (.ldxZeroPage b)
  | .zeroPageY b => some (.ldxZeroPageY b)
  | .absolute w => some (.ldxAbsolute w)
  | .absoluteY w => some (.ldxAbsoluteY w)
  | _ => none

/-- The forms of LDY. -/
def formLdy : Operand → Option Instr
  | .immediate b => some (.ldyImmediate b)
  | .zeroPage b => some (.ldyZeroPage b)
  | .zeroPageX b => some (.ldyZeroPageX b)
  | .absolute w => some (.ldyAbsolute w)
  | .absoluteX w => some (.ldyAbsoluteX w)
  | _ => none

/-- The forms of STA. -/
def formSta : Operand → Option Instr
  | .zeroPage b => some (.staZeroPage b)
  | .zeroPageX b => some (.staZeroPageX b)
  | .absolute w => some (.staAbsolute w)
  | .absoluteX w => some (.staAbsoluteX w)
  | .absoluteY w => some (.staAbsoluteY w)
  | .indirectX b => some (.staIndirectX b)
  | .indirectY b => some (.staIndirectY b)
  | _ => none

/-- The forms of STX. -/
def formStx : Operand → Option Instr
  | .zeroPage b => some (.stxZeroPage b)
  | .zeroPageY b => some (.stxZeroPageY b)
  | .absolute w => some (.stxAbsolute w)
  | _ => none

/-- The forms of STY. -/
def formSty : Operand → Option Instr
  | .zeroPage b => some (.styZeroPage b)
  | .zeroPageX b => some (.styZeroPageX b)
  | .absolute w => some (.styAbsolute w)
  | _ => none

/-- The forms of TAX. -/
def formTax : Operand → Option Instr
  | .implicit => some .tax
  | _ => none

/-- The forms of TXA. -/
def formTxa : Operand → Option Instr
  | .implicit => some .txa
  | _ => none

/-- The forms of TAY. -/
def formTay : Operand → Option Instr
  | .implicit => some .tay
  | _ => none

/-- The forms of TYA. -/
def formTya : Operand → Option Instr
  | .implicit => some .tya
  | _ => none

/-- The forms of ADC. -/
def formAdc : Operand → Option Instr
  | .immediate b => some (.adcImmediate b)
  | .zeroPage b => some (.adcZeroPage b)
  | .zeroPageX b => some (.adcZeroPageX b)
  | .absolute w => some (.adcAbsolute w)
  | .absoluteX w => some (.adcAbsoluteX w)
  | .absoluteY w => some (.adcAbsoluteY w)
  | .indirectX b => some (.adcIndirectX b)
  | .indirectY b => some (.adcIndirectY b)
  | _ => none

/-- The forms of SBC. -/
def formSbc : Operand → Option Instr
  | .immediate b => some (.sbcImmediate b)
  | .zeroPage b => some (.sbcZeroPage b)
  | .zeroPageX b => some (.sbcZeroPageX b)
  | .absolute w => some (.sbcAbsolute w)
  | .absoluteX w => some (.sbcAbsoluteX w)
  | .absoluteY w => some (.sbcAbsoluteY w)
  | .indirectX b => some (.sbcIndirectX b)
  | .indirectY b => some (.sbcIndirectY b)
  | _ => none

/-- The forms of INC. -/
def formInc : Operand → Option Instr
  | .zeroPage b => some (.incZeroPage b)
  | .zeroPageX b => some (.incZeroPageX b)
  | .absolute w => some (.incAbsolute w)
  | .absoluteX w => some (.incAbsoluteX w)
  | _ => none

/-- The forms of DEC. -/
def formDec : Operand → Option Instr
  | .zeroPage b => some (.decZeroPage b)
  | .zeroPageX b => some (.decZeroPageX b)
  | .absolute w => some (.decAbsolute w)
  | .absoluteX w => some (.decAbsoluteX w)
  | _ => none

/-- The forms of INX. -/
def formInx : Operand → Option Instr
  | .implicit => some .inx
  | _ => none

/-- The forms of DEX. -/
def formDex : Operand → Option Instr
  | .implicit => some .dex
  | _ => none

/-- The forms of INY. -/
def formIny : Operand → Option Instr
  | .implicit => some .iny
  | _ => none

/-- The forms of DEY. -/
def formDey : Operand → Option Instr
  | .implicit => some .dey
  | _ => none

/-- The forms of ASL. -/
def formAsl : Operand → Option Instr
  | .accumulator => some .aslAccumulator
  | .zeroPage b => some (.aslZeroPage b)
  | .zeroPageX b => some (.aslZeroPageX b)
  | .absolute w => some (.aslAbsolute w)
  | .absoluteX w => some (.aslAbsoluteX w)
  | _ => none

/-- The forms of LSR. -/
def formLsr : Operand → Option Instr
  | .accumulator => some .lsrAccumulator
  | .zeroPage b => some (.lsrZeroPage b)
  | .zeroPageX b => some (.lsrZeroPageX b)
  | .absolute w => some (.lsrAbsolute w)
  | .absoluteX w => some (.lsrAbsoluteX w)
  | _ => none

/-- The forms of ROL. -/
def formRol : Operand → Option Instr
  | .accumulator => some .rolAccumulator
  | .zeroPage b => some (.rolZeroPage b)
  | .zeroPageX b => some (.rolZeroPageX b)
  | .absolute w => some (.rolAbsolute w)
  | .absoluteX w => some (.rolAbsoluteX w)
  | _ => none

/-- The forms of ROR. -/
def formRor : Operand → Option Instr
  | .accumulator => some .rorAccumulator
  | .zeroPage b => some (.rorZeroPage b)
  | .zeroPageX b => some (.rorZeroPageX b)
  | .absolute w => some (.rorAbsolute w)
  | .absoluteX w => some (.rorAbsoluteX w)
  | _ => none

/-- The forms of AND. -/
def formAnd : Operand → Option Instr
  | .immediate b => some (.andImmediate b)
  | .zeroPage b => some (.andZeroPage b)
  | .zeroPageX b => some (.andZeroPageX b)
  | .absolute w => some (.andAbsolute w)
  | .absoluteX w => some (.andAbsoluteX w)
  | .absoluteY w => some (.andAbsoluteY w)
  | .indirectX b => some (.andIndirectX b)
  | .indirectY b => some (.andIndirectY b)
  | _ => none

/-- The forms of ORA. -/
def formOra : Operand → Option Instr
  | .immediate b => some (.oraImmediate b)
  | .zeroPage b => some (.oraZeroPage b)
  | .zeroPageX b => some (.oraZeroPageX b)
  | .absolute w => some (.oraAbsolute w)
  | .absoluteX w => some (.oraAbsoluteX w)
  | .absoluteY w => some (.oraAbsoluteY w)
  | .indirectX b => some (.oraIndirectX b)
  | .indirectY b => some (.oraIndirectY b)
  | _ => none

/-- The forms of EOR. -/
def formEor : Operand → Option Instr
  | .immediate b => some (.eorImmediate b)
  | .zeroPage b => some (.eorZeroPage b)
  | .zeroPageX b => some (.eorZeroPageX b)
  | .absolute w => some (.eorAbsolute w)
  | .absoluteX w => some (.eorAbsoluteX w)
  | .absoluteY w => some (.eorAbsoluteY w)
  | .indirectX b => some (.eorIndirectX b)
  | .indirectY b => some (.eorIndirectY b)
  | _ => none

/-- The forms of BRK. -/
def formBrk : Operand → Option Instr
  | .implicit => some .brk
  | _ => none

/-- The instruction a mnemonic and an operand name, if that (mnemonic, mode) pair has an opcode (R50, R78). -/
def Instr.ofForm : Mnemonic → Operand → Option Instr
  | .LDA, o => formLda o
  | .LDX, o => formLdx o
  | .LDY, o => formLdy o
  | .STA, o => formSta o
  | .STX, o => formStx o
  | .STY, o => formSty o
  | .TAX, o => formTax o
  | .TXA, o => formTxa o
  | .TAY, o => formTay o
  | .TYA, o => formTya o
  | .ADC, o => formAdc o
  | .SBC, o => formSbc o
  | .INC, o => formInc o
  | .DEC, o => formDec o
  | .INX, o => formInx o
  | .DEX, o => formDex o
  | .INY, o => formIny o
  | .DEY, o => formDey o
  | .ASL, o => formAsl o
  | .LSR, o => formLsr o
  | .ROL, o => formRol o
  | .ROR, o => formRor o
  | .AND, o => formAnd o
  | .ORA, o => formOra o
  | .EOR, o => formEor o
  | .BRK, o => formBrk o

/-! ## Decode -/

/-- Why bytes are no instruction. -/
inductive DecodeError where
  /-- There is no byte to decode. -/
  | noBytes
  /-- The first byte has no row in the opcode ROM (30_encoding.md R52, 60_exceptions.md R130). -/
  | unrecognizedOpcode (op : Byte)
  /-- The opcode has a row, and bytes of its operand are missing. -/
  | truncated (op : Byte)
  /-- The row's mnemonic and mode name no instruction; no row of this ROM does so. -/
  | noSuchForm (op : Byte)
  deriving DecidableEq, Repr

/-- The operand field a mode takes off the bytes after the opcode, and the bytes that are left (R45, R46). -/
def takeOperand (mode : AddrMode) (bytes : List Byte) : Option (Operand × List Byte) :=
  match mode.operandBytes, bytes with
  | 0, rest => some (mode.operandOf 0 0, rest)
  | 1, b1 :: rest => some (mode.operandOf b1 0, rest)
  | 2, b1 :: b2 :: rest => some (mode.operandOf b1 b2, rest)
  | _, _ => none

/-- Decode with a given ROM: look the first byte up, take the operand its mode has, name the instruction (R48, R54). Total:
it answers an instruction with the bytes after it, or says why there is none. -/
def decodeWith (rom : List Descriptor) : List Byte → Except DecodeError (Instr × List Byte)
  | [] => .error .noBytes
  | op :: rest =>
    match romLookup rom op with
    | none => .error (.unrecognizedOpcode op)
    | some d =>
      match takeOperand d.mode rest with
      | none => .error (.truncated op)
      | some (o, rest') =>
        match Instr.ofForm d.mnemonic o with
        | none => .error (.noSuchForm op)
        | some i => .ok (i, rest')

/-- Decode with this hardware's ROM. -/
def decode (bytes : List Byte) : Except DecodeError (Instr × List Byte) := decodeWith opcodeRom bytes

/-! ## Encode -/

/-- An instruction's opcode byte, from the Encoding lines of the family files. -/
def Instr.opcode : Instr → Byte
  | .ldaImmediate _ => 0xA9
  | .ldaZeroPage _ => 0xA5
  | .ldaZeroPageX _ => 0xB5
  | .ldaAbsolute _ => 0xAD
  | .ldaAbsoluteX _ => 0xBD
  | .ldaAbsoluteY _ => 0xB9
  | .ldaIndirectX _ => 0xA1
  | .ldaIndirectY _ => 0xB1
  | .ldxImmediate _ => 0xA2
  | .ldxZeroPage _ => 0xA6
  | .ldxZeroPageY _ => 0xB6
  | .ldxAbsolute _ => 0xAE
  | .ldxAbsoluteY _ => 0xBE
  | .ldyImmediate _ => 0xA0
  | .ldyZeroPage _ => 0xA4
  | .ldyZeroPageX _ => 0xB4
  | .ldyAbsolute _ => 0xAC
  | .ldyAbsoluteX _ => 0xBC
  | .staZeroPage _ => 0x85
  | .staZeroPageX _ => 0x95
  | .staAbsolute _ => 0x8D
  | .staAbsoluteX _ => 0x9D
  | .staAbsoluteY _ => 0x99
  | .staIndirectX _ => 0x81
  | .staIndirectY _ => 0x91
  | .stxZeroPage _ => 0x86
  | .stxZeroPageY _ => 0x96
  | .stxAbsolute _ => 0x8E
  | .styZeroPage _ => 0x84
  | .styZeroPageX _ => 0x94
  | .styAbsolute _ => 0x8C
  | .tax => 0xAA
  | .txa => 0x8A
  | .tay => 0xA8
  | .tya => 0x98
  | .adcImmediate _ => 0x69
  | .adcZeroPage _ => 0x65
  | .adcZeroPageX _ => 0x75
  | .adcAbsolute _ => 0x6D
  | .adcAbsoluteX _ => 0x7D
  | .adcAbsoluteY _ => 0x79
  | .adcIndirectX _ => 0x61
  | .adcIndirectY _ => 0x71
  | .sbcImmediate _ => 0xE9
  | .sbcZeroPage _ => 0xE5
  | .sbcZeroPageX _ => 0xF5
  | .sbcAbsolute _ => 0xED
  | .sbcAbsoluteX _ => 0xFD
  | .sbcAbsoluteY _ => 0xF9
  | .sbcIndirectX _ => 0xE1
  | .sbcIndirectY _ => 0xF1
  | .incZeroPage _ => 0xE6
  | .incZeroPageX _ => 0xF6
  | .incAbsolute _ => 0xEE
  | .incAbsoluteX _ => 0xFE
  | .decZeroPage _ => 0xC6
  | .decZeroPageX _ => 0xD6
  | .decAbsolute _ => 0xCE
  | .decAbsoluteX _ => 0xDE
  | .inx => 0xE8
  | .dex => 0xCA
  | .iny => 0xC8
  | .dey => 0x88
  | .aslAccumulator => 0x0A
  | .aslZeroPage _ => 0x06
  | .aslZeroPageX _ => 0x16
  | .aslAbsolute _ => 0x0E
  | .aslAbsoluteX _ => 0x1E
  | .lsrAccumulator => 0x4A
  | .lsrZeroPage _ => 0x46
  | .lsrZeroPageX _ => 0x56
  | .lsrAbsolute _ => 0x4E
  | .lsrAbsoluteX _ => 0x5E
  | .rolAccumulator => 0x2A
  | .rolZeroPage _ => 0x26
  | .rolZeroPageX _ => 0x36
  | .rolAbsolute _ => 0x2E
  | .rolAbsoluteX _ => 0x3E
  | .rorAccumulator => 0x6A
  | .rorZeroPage _ => 0x66
  | .rorZeroPageX _ => 0x76
  | .rorAbsolute _ => 0x6E
  | .rorAbsoluteX _ => 0x7E
  | .andImmediate _ => 0x29
  | .andZeroPage _ => 0x25
  | .andZeroPageX _ => 0x35
  | .andAbsolute _ => 0x2D
  | .andAbsoluteX _ => 0x3D
  | .andAbsoluteY _ => 0x39
  | .andIndirectX _ => 0x21
  | .andIndirectY _ => 0x31
  | .oraImmediate _ => 0x09
  | .oraZeroPage _ => 0x05
  | .oraZeroPageX _ => 0x15
  | .oraAbsolute _ => 0x0D
  | .oraAbsoluteX _ => 0x1D
  | .oraAbsoluteY _ => 0x19
  | .oraIndirectX _ => 0x01
  | .oraIndirectY _ => 0x11
  | .eorImmediate _ => 0x49
  | .eorZeroPage _ => 0x45
  | .eorZeroPageX _ => 0x55
  | .eorAbsolute _ => 0x4D
  | .eorAbsoluteX _ => 0x5D
  | .eorAbsoluteY _ => 0x59
  | .eorIndirectX _ => 0x41
  | .eorIndirectY _ => 0x51
  | .brk => 0x00

/-- The bytes of an instruction, in address order: the opcode, then the operand bytes (R44). -/
def encode (i : Instr) : List Byte := i.opcode :: i.operand.bytes

/-! ## The opcode table's words -/

/-- The bytes of a table word of `nbits` bits: bits 7..0 are the byte at the lowest address, the next eight bits the next
byte; every bit above `nbits` is 0. Three bytes, the longest instruction. -/
def tableBytes (nbits w : Nat) : List Byte :=
  let v := w % 2 ^ nbits
  [BitVec.ofNat 8 v, BitVec.ofNat 8 (v / 256), BitVec.ofNat 8 (v / 65536)]

/-- The instruction the decoder reads from a table word, numbered as spec/opcode_table.json numbers it. -/
def decodeTableWord (nbits w : Nat) : Option Instr :=
  match decode (tableBytes nbits w) with
  | .ok (i, _) => some i
  | .error _ => none

end Sys2Proof
end

