-- ==== Sys2Proof/Machine/Loop.lean ====
section
/-! DEFINITION. The execution loop's step (spec/42_execution_loop.md R91 to R94): what a step does in each run status, the
fetch of an instruction's bytes, and the spec's own step, R93, over an OPCODE_ROM taken as a parameter. Machine/Step.lean
makes the machine's step of the first two and Machine/Dispatch.lean. -/

namespace Sys2Proof.Machine

/-- What a step does in each run status (10_state.md R23), around the running of one instruction. Running: one
instruction (R93). Ready: the host's `run` begins here, "`status <- Running`" and the first instruction (R92; DESIGN CHOICE,
log 1). Halted: nothing, "Nothing inside the core wakes it" (60_exceptions.md R144; DESIGN CHOICE, log 2). Faulted: refused
(R92; log 3). -/
def stepWith (runOne : State → Result) (s : State) : Result :=
  match s.status with
  | .running => runOne s
  | .ready => runOne (s.setStatus .running)
  | .halted => .next s
  | .faulted record => .refused (.runFromFaulted record)

/-- The bytes of the instruction at PC: the opcode, and as many more as its descriptor's length says, at consecutive
addresses modulo 2^16 (30_encoding.md R44, R54; R93; log 11). An unrecognised opcode stands alone: it has no length. -/
def State.instrBytes (s : State) : List Byte :=
  match romLookup opcodeRom (s.read s.pc) with
  | none => [s.read s.pc]
  | some d => (List.range d.length).map fun k => s.read (s.pc + BitVec.ofNat 16 k)

/-- Fetch, decode and execute one instruction, given the dispatch: a byte with no row raises UnrecognizedOpcode with the
byte and its address (60_exceptions.md R130). -/
def fetchAndRun (run : Instr → State → Result) (s : State) : Result :=
  match decode s.instrBytes with
  | .ok (i, _) => run i s
  | .error _ => raise (.unrecognizedOpcode (s.read s.pc) s.pc) s

/-- The bytes of a table word put where the next instruction is fetched, and a status in which a step runs it: a run goes
on, `Ready` stays, and a stopped core is put inside a run (log 18). -/
def State.placeWord (s : State) (nbits w : Nat) : State :=
  let t := s.setMem (s.mem.writeBytes s.pc (tableBytes nbits w))
  match t.status with
  | .ready => t
  | .running => t
  | .halted => t.setStatus .running
  | .faulted _ => t.setStatus .running

/-! ## The spec's step over a parameter ROM -/

/-- `execute(d)`: the one rule that the mnemonic selects, passed the mode (R94). -/
def execute (m : Mnemonic) (site : FetchSite) (o : Operand) (s : State) : Result :=
  match m with
  | .LDA => lda site o s
  | .LDX => ldx site o s
  | .LDY => ldy site o s
  | .STA => sta site o s
  | .STX => stx site o s
  | .STY => sty site o s
  | .TAX => tax site o s
  | .TXA => txa site o s
  | .TAY => tay site o s
  | .TYA => tya site o s
  | .ADC => adc site o s
  | .SBC => sbc site o s
  | .INC => inc site o s
  | .DEC => dec site o s
  | .INX => inx site o s
  | .DEX => dex site o s
  | .INY => iny site o s
  | .DEY => dey site o s
  | .ASL => asl site o s
  | .LSR => lsr site o s
  | .ROL => rol site o s
  | .ROR => ror site o s
  | .AND => andA site o s
  | .ORA => ora site o s
  | .EOR => eor site o s
  | .BRK => brk site o s

/-- R93's `step()` for a ROM: fetch the opcode, look it up, move PC past it, halt or execute with the operand bytes read at
PC, and advance PC by `length - 1`. The ROM is the parameter `OPCODE_ROM` (00_scope.md R9); with a table that gives a
mnemonic a mode it lacks, `EA` can raise UnsupportedAddressingMode here (60_exceptions.md R131; log 19). -/
def romRunOne (rom : List Descriptor) (s : State) : Result :=
  match romLookup rom (s.read s.pc) with
  | none => raise (.unrecognizedOpcode (s.read s.pc) s.pc) s
  | some d =>
    if d.family = .halt then .next s.atOperand.halt
    else runHandler d.opcode d.length (fun site t => execute d.mnemonic site (fetchOperand d.mode t) t) s

/-- The step of a core whose opcode ROM is `rom`. -/
def romStep (rom : List Descriptor) (s : State) : Result := stepWith (romRunOne rom) s

end Sys2Proof.Machine
end

