-- ==== Sys2Proof/Machine/Step.lean ====
section
/-! DEFINITION. One step of the machine: in a run, fetch, decode and execute one instruction (spec/42_execution_loop.md R93);
outside one, what Machine/Loop.lean says of each status. -/

namespace Sys2Proof.Machine

/-- One step: one whole instruction (00_scope.md R13). -/
def step (s : State) : Host.Outcome State Fault Refusal := stepWith (fetchAndRun exec) s

/-- The state with a table word stored where step fetches its next instruction. -/
def State.withFetchWord (s : State) (nbits w : Nat) : State := s.placeWord nbits w

end Sys2Proof.Machine
end

