-- ==== Sys2Proof/Machine/Lifecycle.lean ====
section
/-! DEFINITION. What the host does to the core between runs: construct, load, reset, run, and reads and writes of bytes, words,
registers and the whole state (spec/70_reset_and_hazards.md R145 to R150, spec/42_execution_loop.md R91, R92, R96). The core moves only in
step; these are the outside world's moves. -/

namespace Sys2Proof.Machine

/-- A host operation is allowed when the status is not `Running` (R150; log 16). -/
def State.notRunning (s : State) : Bool := s.status != .running

/-- Answer a host operation, or refuse it during a run (R150). -/
def betweenRuns {α : Type} (s : State) (v : α) : Host.Outcome α Fault Refusal :=
  if s.notRunning then .next v else .refused .hostDuringRun

/-! ## construct, load, reset -/

/-- `construct` (R145, 10_state.md R25). -/
def construct : State := State.constructed

/-- The memory `load` leaves: the image at 0x8000, then the origin in the reset vector (R146). -/
def loadedMemory (prog : List Byte) (m : Memory) : Memory :=
  (m.writeBytes Config.programOrigin prog).writeWord Config.resetVector Config.programOrigin

/-- `load(prog)` (R146): it writes memory only, and does not change `status`. Refused for more than 0x7FFC bytes (R147;
UNVERIFIED: the spec's own decision D17, log 16). -/
def load (prog : List Byte) (s : State) : Result :=
  if Config.maxProgram < prog.length then .refused (.programTooLong prog.length)
  else betweenRuns s (s.setMem (loadedMemory prog s.mem))

/-- What reset writes: A, X, Y, then P, then PC from the reset vector, then `status <- Ready`; SP and memory stay
(R148, 10_state.md R26; log 10). -/
def State.afterReset (s : State) : State :=
  let t := (((s.setA 0x00).setX 0x00).setY 0x00).setP State.resetP
  (t.setPc (t.readWord Config.resetVector)).setStatus .ready

/-- `reset` as the host calls it (R148, R150). It is also a way out of `Faulted` (60_exceptions.md R132). -/
def reset (s : State) : Result := betweenRuns s s.afterReset

/-! ## run -/

/-- The start of `run`: from `Ready` or `Halted`, "It sets `status <- Running`"; refused from `Faulted` (R92). No register is
reset. -/
def beginRun (s : State) : Result :=
  match s.status with
  | .ready => .next (s.setStatus .running)
  | .halted => .next (s.setStatus .running)
  | .running => .refused .hostDuringRun
  | .faulted record => .refused (.runFromFaulted record)

/-- Steps taken "while `status = Running`" (R91), at most `fuel` of them: a run need not end (R96). -/
def runLoop : Nat → State → Result
  | 0, s => .next s
  | fuel + 1, s =>
    match s.status with
    | .running =>
      match step s with
      | .next t => runLoop fuel t
      | .fault f => .fault f
      | .refused r => .refused r
    | .ready => .next s
    | .halted => .next s
    | .faulted _ => .next s

/-- `run` under fuel (R92, R96): the state at halt, the error record with the state it leaves, or a state still `Running`
when the fuel is out. -/
def run (fuel : Nat) (s : State) : Result :=
  match beginRun s with
  | .next t => runLoop fuel t
  | .fault f => .fault f
  | .refused r => .refused r

/-! ## Reads and writes between runs (R150; writes of registers UNVERIFIED: the spec's own decision D18, log 16) -/

/-- `read_byte(a)`. -/
def hostReadByte (a : Addr) (s : State) : Host.Outcome Byte Fault Refusal := betweenRuns s (s.read a)
/-- `read_word_le(a)`. -/
def hostReadWord (a : Addr) (s : State) : Host.Outcome Addr Fault Refusal := betweenRuns s (s.readWord a)
/-- `write_byte(a, v)`. -/
def hostWriteByte (a : Addr) (v : Byte) (s : State) : Result := betweenRuns s (s.write a v)
/-- `write_word_le(a, v)`. -/
def hostWriteWord (a v : Addr) (s : State) : Result := betweenRuns s (s.setMem (s.mem.writeWord a v))

/-- The 8-bit registers the host reads and writes. -/
inductive Reg8 where
  | A | X | Y | P | SP
  deriving DecidableEq, Repr

/-- An 8-bit register's value. -/
def State.reg8 (s : State) : Reg8 → Byte
  | .A => s.a
  | .X => s.x
  | .Y => s.y
  | .P => s.p
  | .SP => s.sp

/-- An 8-bit register set. Of P all eight bits are stored, the reserved bits 4 and 5 among them: R150 says the write "sets
it", decision D12 that the two bits are "written by reset and by nothing else" (DESIGN CHOICE, log 22). -/
def State.setReg8 (s : State) (r : Reg8) (v : Byte) : State :=
  match r with
  | .A => s.setA v
  | .X => s.setX v
  | .Y => s.setY v
  | .P => s.setP v
  | .SP => s.setSp v

/-- P as it is observed: the six named flags, bits 4 and 5 masked, since "An observation of P must mask bits 4 and 5"
(10_state.md R18; log 9). -/
def State.observedP (s : State) : Byte := s.p &&& 0b11001111

/-- An 8-bit register as the host sees it: its value, and of P the six named flags (R150, 10_state.md R18). -/
def State.observed8 (s : State) (r : Reg8) : Byte := if r = .P then s.observedP else s.reg8 r

/-- Read A, X, Y, P or SP, P with its bits 4 and 5 masked. -/
def hostReadReg (r : Reg8) (s : State) : Host.Outcome Byte Fault Refusal := betweenRuns s (s.observed8 r)
/-- Read PC. -/
def hostReadPc (s : State) : Host.Outcome Addr Fault Refusal := betweenRuns s s.pc
/-- Write A, X, Y, P or SP; of P all eight bits (DESIGN CHOICE, log 22). -/
def hostWriteReg (r : Reg8) (v : Byte) (s : State) : Result := betweenRuns s (s.setReg8 r v)
/-- Write PC. -/
def hostWritePc (v : Addr) (s : State) : Result := betweenRuns s (s.setPc v)

/-- "a host write of the whole state": every register, memory and the run status become `w`'s, which is also a way out of
`Faulted` (60_exceptions.md R132). The counter of free values is no state of the hardware, and stays. A `w` that is
`Running` is refused: there the host makes no move (R150; DESIGN CHOICE, log 21). Bits 4 and 5 of P are written too (DESIGN
CHOICE, log 22). -/
def hostWriteState (w s : State) : Result :=
  if w.notRunning then betweenRuns s (w.setFreeCount s.freeCount) else .refused .hostWritesRunning

end Sys2Proof.Machine
end

