-- ==== Sys2Proof/Safety.lean ====
section
/-! DEFINITION. What counts as a safe run: no fault and no refusal (spec/42_execution_loop.md R91, R96). -/

namespace Sys2Proof

/-- The machine can take a step: it neither faults nor is refused. -/
def StepOk (s : Machine.State) : Prop := ∃ t, Machine.step s = .next t

/-- `n` steps from a state end in a state, with no fault and no refusal on the way. -/
def SafeFor (n : Nat) (s : Machine.State) : Prop := ∃ t, Host.Core.run core n s = .next t

/-- A run from a state ends at BRK within `n` steps, "a run ends only at BRK or at a fault" (R96). -/
def HaltsWithin (n : Nat) (s : Machine.State) : Prop := ∃ t, Machine.run n s = .next t ∧ t.status = .halted

/-- The invariant every step keeps: memory is in its canonical form (log 15), and Z and N are not both 1, since the one update
that writes them, `update_zero_and_negative`, sets Z for 0x00 alone and N for bytes with bit 7 (41_flags_alu.md R80). The
host can write a P that has both (70_reset_and_hazards.md R150); no step can make one. -/
abbrev Inv (s : Machine.State) : Prop := s.mem.wf ∧ ¬ (s.flag .Z = true ∧ s.flag .N = true)

end Sys2Proof
end

