-- ==== Sys2Proof/WellFormed.lean ====
section
/-! DEFINITION. Which terms are instructions, operands and descriptors of this hardware. Instr has one constructor per row
of the opcode ROM, so the one thing left to check of an instruction is the parameter HAS_EOR (spec/30_encoding.md R53).
A descriptor is checked against the mode table, the format table and the family table (R45, R49, 40_addressing.md R78). -/

namespace Sys2Proof

/-- An instruction exists when EOR is present or it is no EOR (30_encoding.md R53). -/
def Instr.wellFormedWith (hasEor : Bool) (i : Instr) : Bool := hasEor || i.mnemonic != .EOR

/-- An instruction of this hardware: `wellFormedWith` at the parameter's value. -/
def Instr.wellFormed (i : Instr) : Bool := i.wellFormedWith Config.hasEor

/-- The mnemonic has the mode (40_addressing.md R78). -/
def Descriptor.modeOk (d : Descriptor) : Bool := d.mnemonic.accepts d.mode

/-- The length is the mode's (30_encoding.md R45). -/
def Descriptor.lengthOk (d : Descriptor) : Bool := d.length == d.mode.length

/-- The family tag is the mnemonic's (30_encoding.md R49). -/
def Descriptor.familyOk (d : Descriptor) : Bool := d.family == d.mnemonic.family

/-- A descriptor that can stand in the ROM of this hardware. -/
def Descriptor.wellFormed (d : Descriptor) : Bool := d.modeOk && d.lengthOk && d.familyOk

end Sys2Proof
end

