-- ==== Sys2Proof/Certificates/Slice0/Obligations.lean ====
section
/-! DEFINITION. The statements for the provers. Each docstring names the rules of spec/ a statement formalises; where a clause
rests on a decision the spec marks as its own (92_eei_decisions.md D<n>) or on a choice of the model (log n), it says so.
`s.atOperand` is the state with PC past the opcode, where operands are resolved (40_addressing.md R59). -/

open Sys2Proof Sys2Proof.Machine

/-! ## What the statements say of a next state -/

/-- Z and N are as `update_zero_and_negative(r)` leaves them: Z = 1 iff r = 0x00, N = bit 7 of r. -/
def Sys2Proof.Claims.ZNOf (r : Byte) (t : State) : Prop := (t.flag .Z = true ↔ r = 0x00) ∧ t.flag .N = bitOf r 7

/-- Every flag outside the list, and both reserved bits of P, are as before. -/
def Sys2Proof.Claims.OnlyFlags (fs : List Flag) (s t : State) : Prop :=
  (∀ f, f ∉ fs → t.flag f = s.flag f) ∧ bitOf t.p 4 = bitOf s.p 4 ∧ bitOf t.p 5 = bitOf s.p 5

/-- Every byte of memory reads as before. -/
def Sys2Proof.Claims.MemKept (s t : State) : Prop := ∀ a, t.read a = s.read a

/-- Every byte of memory outside one address reads as before. -/
def Sys2Proof.Claims.MemKeptBut (ea : Addr) (s t : State) : Prop := ∀ a, a ≠ ea → t.read a = s.read a

/-- SP and the run status are as before. -/
def Sys2Proof.Claims.RestKept (s t : State) : Prop := t.sp = s.sp ∧ t.status = s.status

/-- `r` and `c` are what a shift or rotate by one bit makes of `v` and the carry in, bit by bit: the byte and the bit shifted
out (41_flags_alu.md R87). -/
def Sys2Proof.Claims.ShiftOf (m : Mnemonic) (v : Byte) (cin : Bool) (r : Byte) (c : Bool) : Prop :=
  match m with
  | .ASL => c = bitOf v 7 ∧ bitOf r 0 = false ∧ ∀ k < 7, bitOf r (k + 1) = bitOf v k
  | .LSR => c = bitOf v 0 ∧ bitOf r 7 = false ∧ ∀ k < 7, bitOf r k = bitOf v (k + 1)
  | .ROL => c = bitOf v 7 ∧ bitOf r 0 = cin ∧ ∀ k < 7, bitOf r (k + 1) = bitOf v k
  | .ROR => c = bitOf v 0 ∧ bitOf r 7 = cin ∧ ∀ k < 7, bitOf r k = bitOf v (k + 1)
  | _ => False

/-- The instruction stores a byte: a store, an increment or decrement of memory, or a shift or rotate of memory
(20_memory.md R34). -/
def Sys2Proof.Claims.Stores (i : Instr) : Prop :=
  i.mnemonic ∈ [.STA, .STX, .STY, .INC, .DEC] ∨ (i.mnemonic ∈ [.ASL, .LSR, .ROL, .ROR] ∧ i.mode ≠ .accumulator)

/-- The byte a storing instruction puts at its effective address (43_load_store.md R103 to R105, 46_incdec.md R114, R115,
47_shift_rotate.md R120). -/
def Sys2Proof.Claims.storedByte (i : Instr) (s : State) (ea : Addr) : Byte :=
  match i.mnemonic with
  | .STA => s.a
  | .STX => s.x
  | .STY => s.y
  | .INC => inc8 (s.read ea)
  | .DEC => dec8 (s.read ea)
  | .ASL => (asl8 (s.read ea) (s.flag .C)).1
  | .LSR => (lsr8 (s.read ea) (s.flag .C)).1
  | .ROL => (rol8 (s.read ea) (s.flag .C)).1
  | .ROR => (ror8 (s.read ea) (s.flag .C)).1
  | _ => s.read ea

open Sys2Proof.Claims

/-! ## Encoding -/

/-- Words written out from the opcode table decode to the instructions they stand for, one or more of every family, and bytes
of R52 do not decode (30_encoding.md R50, R52, R56; the bytes are the spec's decision D1, log 7). -/
def Obligations.DecodeReadsTheTablesWords : Prop :=
  decode [0b10101001, 0x05] = .ok (.ldaImmediate 0x05, []) ∧
  decode [0b10001101, 0x00, 0x02] = .ok (.staAbsolute 0x0200, []) ∧
  decode [0b10010110, 0x10] = .ok (.stxZeroPageY 0x10, []) ∧
  decode [0b10101010] = .ok (.tax, []) ∧
  decode [0b01101001, 0x50] = .ok (.adcImmediate 0x50, []) ∧
  decode [0b11110001, 0x20] = .ok (.sbcIndirectY 0x20, []) ∧
  decode [0b11111110, 0x34, 0x12] = .ok (.incAbsoluteX 0x1234, []) ∧
  decode [0b11101000, 0xEA] = .ok (.inx, [0xEA]) ∧
  decode [0b00001010] = .ok (.aslAccumulator, []) ∧
  decode [0b01111110, 0xFF, 0x01] = .ok (.rorAbsoluteX 0x01FF, []) ∧
  decode [0b01000001, 0x20] = .ok (.eorIndirectX 0x20, []) ∧
  decode [0b00000000, 0x77] = .ok (.brk, [0x77]) ∧
  decode [0xEA] = .error (.unrecognizedOpcode 0xEA) ∧
  decode [0x02, 0x00, 0x00] = .error (.unrecognizedOpcode 0x02)

/-- Decode of encode is the instruction, with every operand at every value, whatever bytes follow, with and without EOR
(30_encoding.md R44 to R48, R53). -/
def Obligations.DecodeOfEncodeIsTheInstruction : Prop :=
  ∀ (hasEor : Bool) (i : Instr) (rest : List Byte), i.wellFormedWith hasEor = true →
    decodeWith (opcodeRomWith hasEor) (encode i ++ rest) = .ok (i, rest)

/-- Only an instruction's own bytes decode to it: no two byte strings stand for one instruction (30_encoding.md R48, R54,
R55). -/
def Obligations.DecodedBytesAreTheEncoding : Prop :=
  ∀ (hasEor : Bool) (bytes : List Byte) (i : Instr) (rest : List Byte),
    decodeWith (opcodeRomWith hasEor) bytes = .ok (i, rest) → bytes = encode i ++ rest ∧ i.wellFormedWith hasEor = true

/-- Every row of the opcode ROM has a mode its mnemonic has, the length of its mode and the family of its mnemonic; no two
rows share an opcode; there are 108, and 100 without EOR (30_encoding.md R45, R49, R50, R53, 40_addressing.md R78;
decisions D1, D2, D20, logs 7, 8). -/
def Obligations.RomRowsAgreeWithModeLengthAndFamilyTables : Prop :=
  (∀ d ∈ opcodeRom, d.wellFormed = true) ∧ opcodeRom.Pairwise (fun d e => d.opcode ≠ e.opcode) ∧
  opcodeRom.length = 108 ∧ (opcodeRomWith false).length = 100

/-- The 148 bytes R52 lists, and no others, have no row; without EOR the eight EOR bytes join them (30_encoding.md R52, R53;
decisions D1, D2, logs 7, 8). -/
def Obligations.UnrecognisedBytesAreTheListedOnes : Prop :=
  let unlisted : List Byte :=
    [0x02, 0x03, 0x04, 0x07, 0x08, 0x0B, 0x0C, 0x0F, 0x10, 0x12, 0x13, 0x14, 0x17, 0x18, 0x1A, 0x1B, 0x1C, 0x1F] ++
    [0x20, 0x22, 0x23, 0x24, 0x27, 0x28, 0x2B, 0x2C, 0x2F, 0x30, 0x32, 0x33, 0x34, 0x37, 0x38, 0x3A, 0x3B, 0x3C, 0x3F] ++
    [0x40, 0x42, 0x43, 0x44, 0x47, 0x48, 0x4B, 0x4C, 0x4F, 0x50, 0x52, 0x53, 0x54, 0x57, 0x58, 0x5A, 0x5B, 0x5C, 0x5F] ++
    [0x60, 0x62, 0x63, 0x64, 0x67, 0x68, 0x6B, 0x6C, 0x6F, 0x70, 0x72, 0x73, 0x74, 0x77, 0x78, 0x7A, 0x7B, 0x7C, 0x7F] ++
    [0x80, 0x82, 0x83, 0x87, 0x89, 0x8B, 0x8F, 0x90, 0x92, 0x93, 0x97, 0x9A, 0x9B, 0x9C, 0x9E, 0x9F] ++
    [0xA3, 0xA7, 0xAB, 0xAF, 0xB0, 0xB2, 0xB3, 0xB7, 0xB8, 0xBA, 0xBB, 0xBF] ++
    [0xC0, 0xC1, 0xC2, 0xC3, 0xC4, 0xC5, 0xC7, 0xC9, 0xCB, 0xCC, 0xCD, 0xCF] ++
    [0xD0, 0xD1, 0xD2, 0xD3, 0xD4, 0xD5, 0xD7, 0xD8, 0xD9, 0xDA, 0xDB, 0xDC, 0xDD, 0xDF] ++
    [0xE0, 0xE2, 0xE3, 0xE4, 0xE7, 0xEA, 0xEB, 0xEC, 0xEF, 0xF0, 0xF2, 0xF3, 0xF4, 0xF7, 0xF8, 0xFA, 0xFB, 0xFC, 0xFF]
  let eor : List Byte := [0x41, 0x45, 0x49, 0x4D, 0x51, 0x55, 0x59, 0x5D]
  unlisted.length = 148 ∧
  (∀ op : Byte, romLookup opcodeRom op = none ↔ op ∈ unlisted) ∧
  (∀ op : Byte, romLookup (opcodeRomWith false) op = none ↔ op ∈ unlisted ++ eor)

/-! ## Memory -/

/-- A read gives the byte of its address, and a write sets that byte and no other (20_memory.md R28). Over memory in its
canonical form, which every step keeps (`StepKeepsInvariant`). -/
def Obligations.ByteWriteSetsThatByteAlone : Prop :=
  ∀ (m : Memory) (a b : Addr) (v : Byte), m.wf → (m.write a v).read b = if b = a then v else m.read b

/-- A word is two bytes, the low one at the lower address and the high one at the next, modulo 2^16; a word written reads
back, and its halves are its bytes (20_memory.md R29, R30, R31, R32; the wrap at 0xFFFF is decision D5, log 11). -/
def Obligations.WordsAreLittleEndianBytePairs : Prop :=
  ∀ (m : Memory) (a v : Addr), m.wf →
    (m.readWord a).toNat = (m.read (a + 1)).toNat * 256 + (m.read a).toNat ∧
    (m.writeWord a v).readWord a = v ∧
    ((m.writeWord a v).read a).toNat = v.toNat % 256 ∧ ((m.writeWord a v).read (a + 1)).toNat = v.toNat / 256 ∧
    (∀ b, b ≠ a → b ≠ a + 1 → (m.writeWord a v).read b = m.read b)

/-! ## Addressing modes: the resolver at PC = p -/

/-- ZeroPage, ZeroPageX and ZeroPageY: the operand byte, plus X or Y modulo 2^8, zero-extended; length 2; ZeroPageY is used by
LDX and STX only (40_addressing.md R63, R64, R65). -/
def Obligations.ZeroPageModesWrapInTheZeroPage : Prop :=
  (∀ s : State, ∃ ea, resolveAt .zeroPage s = some ea ∧ ea.toNat = (s.read s.pc).toNat) ∧
  (∀ s : State, ∃ ea, resolveAt .zeroPageX s = some ea ∧ ea.toNat = ((s.read s.pc).toNat + s.x.toNat) % 256) ∧
  (∀ s : State, ∃ ea, resolveAt .zeroPageY s = some ea ∧ ea.toNat = ((s.read s.pc).toNat + s.y.toNat) % 256) ∧
  (∀ i : Instr, i.mode ∈ [.zeroPage, .zeroPageX, .zeroPageY] → i.length = 2) ∧
  (∀ i : Instr, i.mode = .zeroPageY → i.mnemonic = .LDX ∨ i.mnemonic = .STX)

/-- Immediate, Absolute, AbsoluteX, AbsoluteY, and the two modes without an opcode, Indirect and Relative: the address of the
operand byte itself; the operand word, plus X or Y modulo 2^16; the word, not dereferenced; the byte added unsigned
(40_addressing.md R62, R66, R67, R68, R69, R73; decisions D5, D9, D10, logs 11, 13). -/
def Obligations.WordModesAddModulo65536 : Prop :=
  ∀ s : State,
    let word := (s.read (s.pc + 1)).toNat * 256 + (s.read s.pc).toNat
    resolveAt .immediate s = some s.pc ∧
    (∃ ea, resolveAt .absolute s = some ea ∧ ea.toNat = word) ∧
    (∃ ea, resolveAt .absoluteX s = some ea ∧ ea.toNat = (word + s.x.toNat) % 65536) ∧
    (∃ ea, resolveAt .absoluteY s = some ea ∧ ea.toNat = (word + s.y.toNat) % 65536) ∧
    (∃ ea, resolveAt .indirect s = some ea ∧ ea.toNat = word) ∧
    (∃ ea, resolveAt .relative s = some ea ∧ ea.toNat = (s.pc.toNat + (s.read s.pc).toNat) % 65536)

/-- IndirectX and IndirectY: a pointer in the zero page, at the operand byte plus X modulo 2^8, or at the operand byte with Y
added after the dereference modulo 2^16; both pointer bytes come from the zero page (40_addressing.md R70, R71, R72; the
8-bit wrap of the pointer's second byte is decision D6, log 11). -/
def Obligations.IndirectModesReadZeroPagePointers : Prop :=
  ∀ s : State,
    let zp (n : Nat) : Nat := (s.read (BitVec.ofNat 16 (n % 256))).toNat
    let tx := ((s.read s.pc).toNat + s.x.toNat) % 256
    let ty := (s.read s.pc).toNat
    (∃ ea, resolveAt .indirectX s = some ea ∧ ea.toNat = zp (tx + 1) * 256 + zp tx) ∧
    (∃ ea, resolveAt .indirectY s = some ea ∧ ea.toNat = (zp (ty + 1) * 256 + zp ty + s.y.toNat) % 65536)

/-- Implicit and Accumulator have no address, read no memory, take one byte, and have the users the rules list
(40_addressing.md R74, R75). -/
def Obligations.ImplicitAndAccumulatorHaveNoAddress : Prop :=
  (∀ s : State, resolveAt .implicit s = none ∧ resolveAt .accumulator s = none) ∧
  (∀ (s : State) (m : Memory), operandByte .accumulator s = some s.a ∧
    operandByte .accumulator (s.setMem m) = operandByte .accumulator s) ∧
  (∀ i : Instr, i.mode = .implicit ∨ i.mode = .accumulator → i.length = 1) ∧
  (∀ i : Instr, i.mode = .implicit ↔ i.mnemonic ∈ [.TAX, .TXA, .TAY, .TYA, .INX, .DEX, .INY, .DEY, .BRK]) ∧
  (∀ i : Instr, i.mode = .accumulator → i.mnemonic ∈ [.ASL, .LSR, .ROL, .ROR]) ∧
  (∀ m : Mnemonic, m ∈ [.ASL, .LSR, .ROL, .ROR] → ∃ i : Instr, i.mnemonic = m ∧ i.mode = .accumulator)

/-- An instruction fetched at PC resolves, with the operand it carries, as the resolver does with the bytes at PC; and its
operand byte is the byte at the effective address, for Immediate too (40_addressing.md R58, R59, R62, R77; log 6). -/
def Obligations.CarriedOperandIsTheOneAtPc : Prop :=
  ∀ (s : State) (i : Instr) (rest : List Byte),
    decode [s.read s.pc, s.read (s.pc + 1), s.read (s.pc + 2)] = .ok (i, rest) →
      i.operand = fetchOperand i.mode s.atOperand ∧
      resolve i.operand s.atOperand = resolveAt i.mode s.atOperand ∧
      (i.mode ≠ .accumulator →
        operandByte i.operand s.atOperand = (resolveAt i.mode s.atOperand).map fun ea => s.read ea)

/-! ## Flags and the ALU -/

/-- A write to one flag sets it and changes no other bit of P, nor anything else (41_flags_alu.md R79); and the six flags are bits
0, 1, 2, 3, 6 and 7 of P, in the order C, Z, I, D, V, N (10_state.md R16). -/
def Obligations.SettingAFlagChangesNoOtherBit : Prop :=
  ∀ (s : State) (f : Flag) (b : Bool),
    ((s.setFlag f b).flag f = b ∧ OnlyFlags [f] s (s.setFlag f b) ∧ (s.setFlag f b).setP s.p = s) ∧
    (s.flag .C = bitOf s.p 0 ∧ s.flag .Z = bitOf s.p 1 ∧ s.flag .I = bitOf s.p 2 ∧ s.flag .D = bitOf s.p 3 ∧
      s.flag .V = bitOf s.p 6 ∧ s.flag .N = bitOf s.p 7)

/-- `update_zero_and_negative(r)` sets Z iff r = 0x00 and N iff bit 7 of r is set, and writes only Z and N
(41_flags_alu.md R80). -/
def Obligations.UpdateZeroAndNegativeWritesOnlyZN : Prop :=
  ∀ (s : State) (r : Byte), ZNOf r (s.updateZN r) ∧ OnlyFlags [.Z, .N] s (s.updateZN r) ∧ (s.updateZN r).setP s.p = s

/-- The adder: the sum with carry modulo 2^8, the carry out of the unsigned sum, and overflow exactly when a and b have one
sign and r the other, which is when the signed sum leaves -128..127 (41_flags_alu.md R85; the last equivalence is marked
"derived" there). -/
def Obligations.AdderGivesSumCarryAndSignedOverflow : Prop :=
  ∀ (a b : Byte) (cin : Bool),
    (add8 a b cin).r.toNat = (a.toNat + b.toNat + cin.toNat) % 256 ∧
    ((add8 a b cin).cout = true ↔ 256 ≤ a.toNat + b.toNat + cin.toNat) ∧
    ((add8 a b cin).v = true ↔ bitOf a 7 = bitOf b 7 ∧ bitOf (add8 a b cin).r 7 ≠ bitOf a 7) ∧
    ((add8 a b cin).v = true ↔ signed8 a + signed8 b + (cin.toNat : Int) < -128 ∨ 127 < signed8 a + signed8 b + (cin.toNat : Int))

/-- `inc8` and `dec8` wrap (41_flags_alu.md R86). -/
def Obligations.IncrementAndDecrementWrap : Prop :=
  ∀ v : Byte, (inc8 v).toNat = (v.toNat + 1) % 256 ∧ (dec8 v).toNat = (v.toNat + 255) % 256

/-- `and8`, `or8` and `xor8` work bit by bit (41_flags_alu.md R88). -/
def Obligations.LogicOperationsActBitByBit : Prop :=
  ∀ (a b : Byte) (k : Nat), k < 8 →
    bitOf (and8 a b) k = (bitOf a k && bitOf b k) ∧ bitOf (or8 a b) k = (bitOf a k || bitOf b k) ∧
    bitOf (xor8 a b) k = (bitOf a k != bitOf b k)

/-- Rotates turn a ring of nine bits: nine ROLs give byte and carry back, eight ROLs are one ROR, ROR undoes ROL, and eight
ROLs give the state back only for 0x00 with C = 0 and for 0xFF with C = 1 (41_flags_alu.md R87, which marks the cycle
"derived"; 90_conflicts.md C1; 95_test_vectors.md S6). -/
def Obligations.RotatesTurnANineBitRing : Prop :=
  let rol (x : Byte × Bool) := rol8 x.1 x.2
  let ror (x : Byte × Bool) := ror8 x.1 x.2
  let eight (x : Byte × Bool) := rol (rol (rol (rol (rol (rol (rol (rol x)))))))
  ∀ x : Byte × Bool, rol (eight x) = x ∧ eight x = ror x ∧ ror (rol x) = x ∧
    (eight x = x ↔ x = (0x00, false) ∨ x = (0xFF, true))

/-! ## Instructions -/

/-- Loads copy the operand byte into their register and set Z and N from it; stores copy their register into memory with no
flag effect; C, V, I, D, the reserved bits and every other register are unchanged (43_load_store.md R99). All forms of LDA,
LDX, LDY, STA, STX, STY; each completes. -/
def Obligations.LoadsAndStoresMoveOneByte : Prop :=
  (∀ (i : Instr) (s : State), i.mnemonic ∈ [.LDA, .LDX, .LDY] →
    ∃ m t, operandByte i.operand s.atOperand = some m ∧ exec i s = .next t ∧
      t.a = (if i.mnemonic = .LDA then m else s.a) ∧ t.x = (if i.mnemonic = .LDX then m else s.x) ∧
      t.y = (if i.mnemonic = .LDY then m else s.y) ∧
      ZNOf m t ∧ OnlyFlags [.Z, .N] s t ∧ MemKept s t ∧ RestKept s t) ∧
  (∀ (i : Instr) (s : State), s.mem.wf → i.mnemonic ∈ [.STA, .STX, .STY] →
    ∃ ea t, resolve i.operand s.atOperand = some ea ∧ exec i s = .next t ∧
      t.read ea = (if i.mnemonic = .STA then s.a else if i.mnemonic = .STX then s.x else s.y) ∧ MemKeptBut ea s t ∧
      t.a = s.a ∧ t.x = s.x ∧ t.y = s.y ∧ t.p = s.p ∧ RestKept s t)

/-- A transfer copies one register into another and sets Z and N from the destination; the source and everything else is
unchanged (44_transfer.md R106). TAX, TXA, TAY, TYA; each completes. -/
def Obligations.TransfersCopyARegister : Prop :=
  ∀ s : State,
    (∃ t, exec .tax s = .next t ∧ t.a = s.a ∧ t.x = s.a ∧ t.y = s.y ∧
      ZNOf t.x t ∧ OnlyFlags [.Z, .N] s t ∧ MemKept s t ∧ RestKept s t) ∧
    (∃ t, exec .txa s = .next t ∧ t.a = s.x ∧ t.x = s.x ∧ t.y = s.y ∧
      ZNOf t.a t ∧ OnlyFlags [.Z, .N] s t ∧ MemKept s t ∧ RestKept s t) ∧
    (∃ t, exec .tay s = .next t ∧ t.a = s.a ∧ t.x = s.x ∧ t.y = s.a ∧
      ZNOf t.y t ∧ OnlyFlags [.Z, .N] s t ∧ MemKept s t ∧ RestKept s t) ∧
    (∃ t, exec .tya s = .next t ∧ t.a = s.y ∧ t.x = s.x ∧ t.y = s.y ∧
      ZNOf t.a t ∧ OnlyFlags [.Z, .N] s t ∧ MemKept s t ∧ RestKept s t)

/-- ADC, all eight forms: A + M + C modulo 2^8, C the unsigned carry, V the signed overflow, Z and N from the result; nothing
else changes; it completes (45_arithmetic.md R111, effect and flags). The signed reading of V is marked "derived" in
41_flags_alu.md R85. -/
def Obligations.AdcAddsWithCarry : Prop :=
  ∀ (i : Instr) (s : State), i.mnemonic = .ADC →
    ∃ m t, operandByte i.operand s.atOperand = some m ∧ exec i s = .next t ∧
      t.a.toNat = (s.a.toNat + m.toNat + (s.flag .C).toNat) % 256 ∧
      (t.flag .C = true ↔ 256 ≤ s.a.toNat + m.toNat + (s.flag .C).toNat) ∧
      (t.flag .V = true ↔ signed8 s.a + signed8 m + ((s.flag .C).toNat : Int) < -128 ∨
        127 < signed8 s.a + signed8 m + ((s.flag .C).toNat : Int)) ∧
      ZNOf t.a t ∧ OnlyFlags [.N, .V, .Z, .C] s t ∧ t.x = s.x ∧ t.y = s.y ∧ MemKept s t ∧ RestKept s t

/-- SBC, all eight forms: A - M - (1 - C) modulo 2^8, C = 1 iff no borrow, V the signed overflow of that subtraction, Z and N
from the result; nothing else changes; it completes (45_arithmetic.md R112, the laws it marks "derived"; V by decision D7,
log 12). -/
def Obligations.SbcSubtractsWithBorrow : Prop :=
  ∀ (i : Instr) (s : State), i.mnemonic = .SBC →
    ∃ m t, operandByte i.operand s.atOperand = some m ∧ exec i s = .next t ∧
      (t.a.toNat : Int) = ((s.a.toNat : Int) - m.toNat - (1 - (s.flag .C).toNat)) % 256 ∧
      (t.flag .C = true ↔ (m.toNat : Int) + (1 - (s.flag .C).toNat) ≤ s.a.toNat) ∧
      (t.flag .V = true ↔ signed8 s.a - signed8 m - (1 - ((s.flag .C).toNat : Int)) < -128 ∨
        127 < signed8 s.a - signed8 m - (1 - ((s.flag .C).toNat : Int))) ∧
      ZNOf t.a t ∧ OnlyFlags [.N, .V, .Z, .C] s t ∧ t.x = s.x ∧ t.y = s.y ∧ MemKept s t ∧ RestKept s t

/-- INC and DEC add or subtract 1, wrapping, at one byte of memory; INX, DEX, INY, DEY in their register; Z and N from the
result, and nothing else changes, C and V neither (46_incdec.md R113). All forms; each completes. -/
def Obligations.IncrementsAndDecrementsChangeOneByte : Prop :=
  (∀ (i : Instr) (s : State), s.mem.wf → i.mnemonic = .INC ∨ i.mnemonic = .DEC →
    ∃ ea t, resolve i.operand s.atOperand = some ea ∧ exec i s = .next t ∧
      t.read ea = (if i.mnemonic = .INC then s.read ea + 1 else s.read ea - 1) ∧ MemKeptBut ea s t ∧
      t.a = s.a ∧ t.x = s.x ∧ t.y = s.y ∧ ZNOf (t.read ea) t ∧ OnlyFlags [.Z, .N] s t ∧ RestKept s t) ∧
  (∀ s : State,
    (∃ t, exec .inx s = .next t ∧ t.x = s.x + 1 ∧ t.a = s.a ∧ t.y = s.y ∧
      ZNOf t.x t ∧ OnlyFlags [.Z, .N] s t ∧ MemKept s t ∧ RestKept s t) ∧
    (∃ t, exec .dex s = .next t ∧ t.x = s.x - 1 ∧ t.a = s.a ∧ t.y = s.y ∧
      ZNOf t.x t ∧ OnlyFlags [.Z, .N] s t ∧ MemKept s t ∧ RestKept s t) ∧
    (∃ t, exec .iny s = .next t ∧ t.y = s.y + 1 ∧ t.a = s.a ∧ t.x = s.x ∧
      ZNOf t.y t ∧ OnlyFlags [.Z, .N] s t ∧ MemKept s t ∧ RestKept s t) ∧
    (∃ t, exec .dey s = .next t ∧ t.y = s.y - 1 ∧ t.a = s.a ∧ t.x = s.x ∧
      ZNOf t.y t ∧ OnlyFlags [.Z, .N] s t ∧ MemKept s t ∧ RestKept s t))

/-- ASL, LSR, ROL, ROR, on A or on one byte of memory: the byte shifted by one, C the bit shifted out, the rotates with the
carry in sampled first; Z and N from the result; V, I, D and everything else unchanged (47_shift_rotate.md R120). All
forms; each completes. -/
def Obligations.ShiftsAndRotatesShiftOneByte : Prop :=
  (∀ (i : Instr) (s : State), i.mnemonic ∈ [.ASL, .LSR, .ROL, .ROR] → i.mode = .accumulator →
    ∃ t, exec i s = .next t ∧ ShiftOf i.mnemonic s.a (s.flag .C) t.a (t.flag .C) ∧ ZNOf t.a t ∧
      OnlyFlags [.C, .Z, .N] s t ∧ t.x = s.x ∧ t.y = s.y ∧ MemKept s t ∧ RestKept s t) ∧
  (∀ (i : Instr) (s : State), s.mem.wf → i.mnemonic ∈ [.ASL, .LSR, .ROL, .ROR] → i.mode ≠ .accumulator →
    ∃ ea t, resolve i.operand s.atOperand = some ea ∧ exec i s = .next t ∧
      ShiftOf i.mnemonic (s.read ea) (s.flag .C) (t.read ea) (t.flag .C) ∧ ZNOf (t.read ea) t ∧ MemKeptBut ea s t ∧
      OnlyFlags [.C, .Z, .N] s t ∧ t.a = s.a ∧ t.x = s.x ∧ t.y = s.y ∧ RestKept s t)

/-- AND, ORA, EOR set A to A OP M and Z and N from it, and write nothing else (48_bitwise.md R125, R126, R127, R128, effect and
flags; that EOR is present and is XOR is decision D2, log 8). All forms; each completes. -/
def Obligations.BitwiseInstructionsCombineIntoA : Prop :=
  ∀ (i : Instr) (s : State), i.mnemonic ∈ [.AND, .ORA, .EOR] →
    ∃ m t, operandByte i.operand s.atOperand = some m ∧ exec i s = .next t ∧
      t.a = (if i.mnemonic = .AND then s.a &&& m else if i.mnemonic = .ORA then s.a ||| m else s.a ^^^ m) ∧
      ZNOf t.a t ∧ OnlyFlags [.Z, .N] s t ∧ t.x = s.x ∧ t.y = s.y ∧ MemKept s t ∧ RestKept s t

/-- BRK halts: the status is Halted and PC is past the opcode; no register, flag or byte of memory changes
(42_execution_loop.md R98; PC = pc0 + 1 is decision D13, log 14). It completes. -/
def Obligations.BrkHaltsAndChangesNothingElse : Prop :=
  ∀ s : State, ∃ t, exec .brk s = .next t ∧ t.status = .halted ∧ t.pc = s.pc + 1 ∧
    t.a = s.a ∧ t.x = s.x ∧ t.y = s.y ∧ t.p = s.p ∧ t.sp = s.sp ∧ MemKept s t

/-! ## Rules over all instructions -/

/-- Every instruction completes from every state, and PC is then the address of the next opcode, modulo 2^16: no instruction
jumps, none is privileged, none asks a mode for an address it lacks; only BRK changes the status. That the counter freeCount
stays is about the MODEL's own field, not the spec's state (log 4). (42_execution_loop.md R93, R95, 60_exceptions.md R139,
40_addressing.md R76; decisions D4, D13, logs 11, 14.) -/
def Obligations.EveryInstructionCompletesAtTheNextOpcode : Prop :=
  ∀ (i : Instr) (s : State), ∃ t, exec i s = .next t ∧
    t.pc.toNat = (s.pc.toNat + (encode i).length) % 65536 ∧
    t.status = (if i = .brk then .halted else s.status) ∧ t.freeCount = s.freeCount

/-- Only ADC, SBC, ASL, LSR, ROL and ROR write C, and only ADC and SBC write V (41_flags_alu.md R82). -/
def Obligations.OnlyTheListedInstructionsWriteCarryAndOverflow : Prop :=
  ∀ (i : Instr) (s t : State), exec i s = .next t →
    (i.mnemonic ∉ [.ADC, .SBC, .ASL, .LSR, .ROL, .ROR] → t.flag .C = s.flag .C) ∧
    (i.mnemonic ∉ [.ADC, .SBC] → t.flag .V = s.flag .V)

/-- Only the listed instructions write A, X and Y; the shifts write A in Accumulator mode only (10_state.md R15, which is
marked "derived"). -/
def Obligations.OnlyTheListedInstructionsWriteAXY : Prop :=
  ∀ (i : Instr) (s t : State), exec i s = .next t →
    (t.a ≠ s.a → i.mnemonic ∈ [.LDA, .TXA, .TYA, .ADC, .SBC, .AND, .ORA, .EOR] ∨
      (i.mnemonic ∈ [.ASL, .LSR, .ROL, .ROR] ∧ i.mode = .accumulator)) ∧
    (t.x ≠ s.x → i.mnemonic ∈ [.LDX, .TAX, .INX, .DEX]) ∧
    (t.y ≠ s.y → i.mnemonic ∈ [.LDY, .TAY, .INY, .DEY])

/-- Memory changes at the effective address of a store or a read-modify-write, and nowhere else: every other instruction leaves
every byte as it was (20_memory.md R34, which is marked "derived"). -/
def Obligations.MemoryChangesOnlyAtTheStoredByte : Prop :=
  ∀ (i : Instr) (s t : State), s.mem.wf → exec i s = .next t →
    (i.mnemonic ∈ [.STA, .STX, .STY, .INC, .DEC] ∨ (i.mnemonic ∈ [.ASL, .LSR, .ROL, .ROR] ∧ i.mode ≠ .accumulator) →
      ∀ ea, resolve i.operand s.atOperand = some ea → MemKeptBut ea s t) ∧
    (i.mnemonic ∉ [.STA, .STX, .STY, .INC, .DEC] → ¬ (i.mnemonic ∈ [.ASL, .LSR, .ROL, .ROR] ∧ i.mode ≠ .accumulator) →
      MemKept s t)

/-- No step writes SP, I, D or the reserved bits of P (10_state.md R17, R18, R20, 41_flags_alu.md R83; R17 and R83 mark what the
core does with I and D, R20 what reset does with SP, as decisions D8, D11, D12; logs 9, 10, 12). -/
def Obligations.NoStepWritesSpInterruptDecimalOrReservedBits : Prop :=
  ∀ s t : State, step s = .next t →
    t.sp = s.sp ∧ t.flag .I = s.flag .I ∧ t.flag .D = s.flag .D ∧ bitOf t.p 4 = bitOf s.p 4 ∧ bitOf t.p 5 = bitOf s.p 5

/-- No step reads SP: from a state with another SP it does the same (10_state.md R20). -/
def Obligations.NoStepReadsStackPointer : Prop :=
  ∀ (s t : State) (v : Byte), step s = .next t → step (s.setSp v) = .next (t.setSp v)

/-- No step reads a bit of P other than C: from a state that differs in that one bit, a step gives a state that differs from the
first one's in that bit at most. So D does not make arithmetic decimal and I masks nothing (10_state.md R17, R18,
41_flags_alu.md R83; decisions D8, D12, logs 9, 12). -/
def Obligations.NoStepReadsStatusBitsButCarry : Prop :=
  ∀ (s t : State) (k : Nat) (b : Bool), 0 < k → k < 8 → step s = .next t →
    ∃ u, step (s.setP (withBit s.p k b)) = .next u ∧ u.setP (withBit u.p k (bitOf t.p k)) = t

/-! ## Steps and runs -/

/-- When the bytes at PC decode to an instruction, a step of a core that is running, or ready and so at the start of a run, is
that instruction, with the status Running (42_execution_loop.md R92, R93, R94; that a step from Ready begins the run is the
model's choice, log 1). -/
def Obligations.StepRunsTheDecodedInstruction : Prop :=
  ∀ (s : State) (i : Instr) (rest : List Byte), s.status = .running ∨ s.status = .ready →
    decode [s.read s.pc, s.read (s.pc + 1), s.read (s.pc + 2)] = .ok (i, rest) →
    step s = exec i (s.setStatus .running)

/-- The machine's step is the spec's step over this hardware's opcode ROM: fetch, table lookup, resolver reads at PC, handler,
advance by `length - 1` (42_execution_loop.md R93, R94, 30_encoding.md R48). That romStep is the spec's step over a ROM taken as a
parameter is the model's reading (log 19); the statuses are as logs 1, 2 and 3 say. -/
def Obligations.StepRefinesTheSpecsLoop : Prop :=
  ∀ s : State, step s = romStep opcodeRom s

/-- Every step keeps the invariant: memory in canonical form, and Z and N never both 1. The canonical form alone is kept from
every state that has it, a P with Z and N both 1, as the host may write it (70_reset_and_hazards.md R150), included
(20_memory.md R28, 41_flags_alu.md R80; the form is the model's, log 15). -/
def Obligations.StepKeepsInvariant : Prop :=
  (∀ s t : State, Inv s → step s = .next t → Inv t) ∧ (∀ s t : State, s.mem.wf → step s = .next t → t.mem.wf)

/-- The state after reset meets the invariant (10_state.md R25, R26). -/
def Obligations.ResetMeetsInvariant : Prop := Inv State.reset

/-- A step of a core inside a run halts exactly when the fetched byte is 0x00 (42_execution_loop.md R91, R96, R98). The same is
said of a step from Ready, where that the step begins the run is the model's choice (log 1). -/
def Obligations.HaltsExactlyAtOpcodeZero : Prop :=
  ∀ s t : State, s.status = .running ∨ s.status = .ready → step s = .next t →
    (t.status = .halted ↔ s.read s.pc = 0x00) ∧ (t.status = .running ↔ s.read s.pc ≠ 0x00)

/-- A stopped core stays stopped: from Halted a step changes nothing, and from Faulted none is taken (60_exceptions.md R144,
42_execution_loop.md R92; the model's choices, logs 2 and 3). -/
def Obligations.StoppedCoreStaysStopped : Prop :=
  (∀ s : State, s.status = .halted → step s = .next s) ∧
  (∀ (s : State) (r : FaultRecord), s.status = .faulted r → step s = .refused (.runFromFaulted r))

/-- A run under fuel is that many steps of the core from status Running, with the same outcome, a fault included: a core that halts
before the fuel is out idles from there on (log 2). So a run that returns normally began from Ready or Halted, and ends halted
or, only when every one of the fuel's steps left the core running, running; and once it has halted, more fuel changes nothing
(42_execution_loop.md R91, R92, R96; that a run takes a bound is the model's choice, log 16). -/
def Obligations.RunReturnsHaltedOrOutOfFuel : Prop :=
  (∀ (fuel : Nat) (s : State), s.status = .ready ∨ s.status = .halted →
    run fuel s = Host.Core.run core fuel (s.setStatus .running)) ∧
  (∀ (fuel : Nat) (s t : State), run fuel s = .next t →
    (s.status = .ready ∨ s.status = .halted) ∧ Host.Core.run core fuel (s.setStatus .running) = .next t ∧
    (t.status = .halted ∨ t.status = .running) ∧
    (t.status = .running → ∀ n ≤ fuel, ∃ u : State, Host.Core.run core n (s.setStatus .running) = .next u ∧
      u.status = .running) ∧
    (t.status = .halted → ∀ more, run (fuel + more) s = .next t))

/-- A run begins from Ready or Halted, without resetting anything, and is refused from Faulted and inside a run
(42_execution_loop.md R92, 70_reset_and_hazards.md R150; decision D15, log 16). -/
def Obligations.RunBeginsFromReadyOrHaltedOnly : Prop :=
  ∀ s : State,
    (s.status = .ready ∨ s.status = .halted → beginRun s = .next (s.setStatus .running)) ∧
    (s.status = .running → beginRun s = .refused .hostDuringRun) ∧
    (∀ r, s.status = .faulted r → beginRun s = .refused (.runFromFaulted r))

/-- A store is seen by the fetch that follows: whatever instruction stores a byte, in whatever mode, memory afterwards reads as
before but for that byte, and the next step runs the instruction, opcode and operand, that the bytes at the new PC then stand
for, or raises UnrecognizedOpcode where they stand for none. The storing instruction itself ran with the bytes it was fetched
from (20_memory.md R42, which is marked "derived"; 95_test_vectors.md P4). -/
def Obligations.StoreIntoNextInstructionIsSeen : Prop :=
  ∀ (s : State) (i : Instr) (rest : List Byte), s.mem.wf → s.status = .running →
    decode [s.read s.pc, s.read (s.pc + 1), s.read (s.pc + 2)] = .ok (i, rest) → Stores i →
    ∃ ea t, resolve i.operand s.atOperand = some ea ∧ step s = .next t ∧ t.pc = s.pc + BitVec.ofNat 16 i.length ∧
      let seen (a : Addr) : Byte := if a = ea then storedByte i s ea else s.read a
      (∀ a, t.read a = seen a) ∧
      (∀ j rest', decode [seen t.pc, seen (t.pc + 1), seen (t.pc + 2)] = .ok (j, rest') → step t = exec j t) ∧
      (romLookup opcodeRom (seen t.pc) = none → ∃ left, step t = .fault (.unrecognizedOpcode (seen t.pc) t.pc left))

/-! ## Faults -/

/-- UnrecognizedOpcode is raised by the fetch of a byte with no entry in the opcode table, and by nothing else; it records the
byte and the address it was fetched from and ends the run (60_exceptions.md R130). That a step from Ready fetches at all is the
model's choice (log 1), and the status the fault leaves is read out of the fault outcome (log 3). -/
def Obligations.UnlistedOpcodeFaultsWithByteAndAddress : Prop :=
  (∀ s : State, s.status = .running ∨ s.status = .ready → romLookup opcodeRom (s.read s.pc) = none →
    ∃ left, step s = .fault (.unrecognizedOpcode (s.read s.pc) s.pc left) ∧
      left.status = .faulted (.unrecognizedOpcode (s.read s.pc) s.pc)) ∧
  (∀ (s : State) (f : Fault), step s = .fault f → romLookup opcodeRom (s.read s.pc) = none) ∧
  (∀ (i : Instr) (s : State) (f : Fault), exec i s ≠ .fault f)

/-- What a fault leaves, for any opcode ROM: A, X, Y, P, SP and memory as before the step, and the record in the status. Of PC it
says nothing: it is a free value (60_exceptions.md R132, R133, R135; decisions D14, D21, logs 3, 4, 20). -/
def Obligations.FaultLeavesRegistersAndMemory : Prop :=
  ∀ (rom : List Descriptor) (s : State) (f : Fault), romStep rom s = .fault f →
    f.left.a = s.a ∧ f.left.x = s.x ∧ f.left.y = s.y ∧ f.left.p = s.p ∧ f.left.sp = s.sp ∧ f.left.mem = s.mem ∧
    f.left.status = .faulted f.record

/-- UnsupportedAddressingMode, for any opcode ROM: a row that gives Implicit to an instruction that needs an address, or
Accumulator to one that stores or reads and writes memory and has no Accumulator form, faults with the opcode, its address
and the mode (60_exceptions.md R131, 40_addressing.md R76, R77; the payload is decision D14, log 19). -/
def Obligations.ModeWithoutAddressFaults : Prop :=
  ∀ (rom : List Descriptor) (s : State) (d : Descriptor), s.status = .running → romLookup rom (s.read s.pc) = some d →
    d.family ≠ .halt →
    (d.mode = .implicit ∧ d.mnemonic ∉ [.TAX, .TXA, .TAY, .TYA, .INX, .DEX, .INY, .DEY, .BRK]) ∨
      (d.mode = .accumulator ∧ d.mnemonic ∈ [.STA, .STX, .STY, .INC, .DEC]) →
    ∃ left, romStep rom s = .fault (.unsupportedAddressingMode d.opcode s.pc d.mode left)

/-- Without EOR the eight EOR bytes raise UnrecognizedOpcode, and every other byte runs as it does with EOR (30_encoding.md R53,
48_bitwise.md R128; decision D2, log 8). -/
def Obligations.WithoutEorItsBytesFault : Prop :=
  let eor : List Byte := [0x41, 0x45, 0x49, 0x4D, 0x51, 0x55, 0x59, 0x5D]
  ∀ s : State, s.status = .running →
    (s.read s.pc ∈ eor → ∃ left, romStep (opcodeRomWith false) s = .fault (.unrecognizedOpcode (s.read s.pc) s.pc left)) ∧
    (s.read s.pc ∉ eor → romStep (opcodeRomWith false) s = step s)

/-! ## Construction, load, reset and the host -/

/-- `load` writes the program from 0x8000 on and 0x00, 0x80 into the reset vector, and no other byte, register or status
(70_reset_and_hazards.md R146). -/
def Obligations.LoadWritesImageAndResetVector : Prop :=
  ∀ (prog : List Byte) (s : State), s.mem.wf → s.status ≠ .running → prog.length ≤ 0x7FFC →
    ∃ t, load prog s = .next t ∧
      (∀ (k : Nat) (h : k < prog.length), t.read (0x8000 + BitVec.ofNat 16 k) = prog[k]) ∧
      t.read 0xFFFC = 0x00 ∧ t.read 0xFFFD = 0x80 ∧
      (∀ a : Addr, (a.toNat < 0x8000 ∨ 0x8000 + prog.length ≤ a.toNat) → a ≠ 0xFFFC → a ≠ 0xFFFD → t.read a = s.read a) ∧
      t.setMem s.mem = s

/-- `reset` zeroes A, X and Y, sets I and clears the five other flags, loads PC from the reset vector and makes the status Ready;
SP and memory stay. The reserved bits of P are left out, as R18 asks (70_reset_and_hazards.md R148, 10_state.md R26; that SP
stays is decision D11, log 10). -/
def Obligations.ResetSetsRegistersAndEntersAtTheVector : Prop :=
  ∀ s : State, s.status ≠ .running →
    ∃ t, reset s = .next t ∧ t.a = 0x00 ∧ t.x = 0x00 ∧ t.y = 0x00 ∧
      t.flag .C = false ∧ t.flag .Z = false ∧ t.flag .I = true ∧ t.flag .D = false ∧ t.flag .V = false ∧ t.flag .N = false ∧
      t.pc.toNat = (s.read 0xFFFD).toNat * 256 + (s.read 0xFFFC).toNat ∧ t.status = .ready ∧ t.sp = s.sp ∧ t.mem = s.mem

/-- Construction makes every register zero, every byte of memory zero and the status Ready; and the model's reset state is
construction followed by reset, with nothing loaded: PC is 0x0000 (10_state.md R25, R26, 95_test_vectors.md 2.9; decision D15,
log 5). -/
def Obligations.ResetStateIsConstructThenReset : Prop :=
  (construct.a = 0x00 ∧ construct.x = 0x00 ∧ construct.y = 0x00 ∧ construct.p = 0x00 ∧ construct.sp = 0x00 ∧
    construct.pc = 0x0000 ∧ (∀ a, construct.read a = 0x00) ∧ construct.status = .ready) ∧
  reset construct = .next State.reset ∧ State.reset.pc = 0x0000 ∧ State.reset.status = .ready

/-- The canonical launch state, after construct, load and reset, holds the program at 0x8000, where PC is: A = X = Y = SP = 0, I
alone set of the six flags, PC = 0x8000, status Ready, memory the image and the vector and zero elsewhere
(70_reset_and_hazards.md R149; decision D18, log 16). -/
def Obligations.LaunchStateHoldsTheProgramAt8000 : Prop :=
  ∀ prog : List Byte, prog.length ≤ 0x7FFC →
    ∃ l t, load prog construct = .next l ∧ reset l = .next t ∧
      t.a = 0x00 ∧ t.x = 0x00 ∧ t.y = 0x00 ∧ t.sp = 0x00 ∧ t.pc = 0x8000 ∧ t.status = .ready ∧
      (∀ f, t.flag f = true ↔ f = .I) ∧
      (∀ (k : Nat) (h : k < prog.length), t.read (0x8000 + BitVec.ofNat 16 k) = prog[k]) ∧
      (∀ a : Addr, (a.toNat < 0x8000 ∨ 0x8000 + prog.length ≤ a.toNat) →
        t.read a = if a = 0xFFFD then 0x80 else 0x00)

/-- Inside a run every host operation is refused. In any status, `load` refuses a program longer than 0x7FFC bytes, and the write
of a whole state refuses one that is Running (70_reset_and_hazards.md R147, R150; decisions D17, D18, log 16; the last is the
model's choice, log 21). -/
def Obligations.HostOperationsAreRefusedDuringARun : Prop :=
  (∀ s : State, s.status = .running →
    (∀ prog : List Byte, prog.length ≤ 0x7FFC → load prog s = .refused .hostDuringRun) ∧
    reset s = .refused .hostDuringRun ∧ (∀ n, run n s = .refused .hostDuringRun) ∧
    (∀ a, hostReadByte a s = .refused .hostDuringRun ∧ hostReadWord a s = .refused .hostDuringRun) ∧
    (∀ a v, hostWriteByte a v s = .refused .hostDuringRun) ∧ (∀ a v, hostWriteWord a v s = .refused .hostDuringRun) ∧
    (∀ r, hostReadReg r s = .refused .hostDuringRun) ∧ hostReadPc s = .refused .hostDuringRun ∧
    (∀ r v, hostWriteReg r v s = .refused .hostDuringRun) ∧ (∀ v, hostWritePc v s = .refused .hostDuringRun) ∧
    (∀ w : State, w.status ≠ .running → hostWriteState w s = .refused .hostDuringRun)) ∧
  (∀ (prog : List Byte) (s : State), 0x7FFC < prog.length → load prog s = .refused (.programTooLong prog.length)) ∧
  (∀ w s : State, w.status = .running → hostWriteState w s = .refused .hostWritesRunning)

/-- Between runs the host reads and writes one register, byte or word, and a write changes nothing else; of P the host reads the
six named flags, with bits 4 and 5 masked, so what those bits hold is not seen (70_reset_and_hazards.md R150, 10_state.md R18;
writes of registers are decision D18, log 16; the mask is decision D12, log 9). Because of the mask it does not say whether the
write stores into bits 4 and 5, which is the model's choice (log 22). -/
def Obligations.HostReadsBackWhatItWrites : Prop :=
  ∀ s : State, s.mem.wf → s.status ≠ .running →
    (∀ a v, ∃ t, hostWriteByte a v s = .next t ∧ hostReadByte a t = .next v ∧ MemKeptBut a s t ∧ t.setMem s.mem = s) ∧
    (∀ a v, ∃ t, hostWriteWord a v s = .next t ∧ hostReadWord a t = .next v ∧
      (∀ b, b ≠ a → b ≠ a + 1 → t.read b = s.read b) ∧ t.setMem s.mem = s) ∧
    (∀ r v, ∃ t, hostWriteReg r v s = .next t ∧
      hostReadReg r t = .next (if r = .P then v &&& 0b11001111 else v) ∧ (∀ r', r' ≠ r → t.reg8 r' = s.reg8 r') ∧
      t.pc = s.pc ∧ t.mem = s.mem ∧ t.status = s.status) ∧
    (∀ k b, k = 4 ∨ k = 5 → hostReadReg .P (s.setP (withBit s.p k b)) = hostReadReg .P s) ∧
    (∀ v, ∃ t, hostWritePc v s = .next t ∧ hostReadPc t = .next v ∧ t.setPc s.pc = s)

/-- A host write of the whole state makes every register, every byte of memory and the run status the ones written
(60_exceptions.md R132). That the counter freeCount stays is about the model's own field (log 4), and which statuses may be
written is the model's choice (log 21), and so is that bits 4 and 5 of P are written with the rest (log 22). -/
def Obligations.HostWritesTheWholeState : Prop :=
  ∀ w s : State, w.status ≠ .running → s.status ≠ .running →
    ∃ t, hostWriteState w s = .next t ∧ t.a = w.a ∧ t.x = w.x ∧ t.y = w.y ∧ t.p = w.p ∧ t.sp = w.sp ∧ t.pc = w.pc ∧
      (∀ a, t.read a = w.read a) ∧ t.status = w.status ∧ t.freeCount = s.freeCount

/-- A faulted core is left by a new construction, a reset or a host write of the whole state, and by nothing else: no step and no
run starts from it, and load and the host's writes of one byte, word or register keep its status (60_exceptions.md R132, R136,
42_execution_loop.md R92; decision D15, logs 16, 21). -/
def Obligations.FaultedIsLeftByResetOrWholeStateWriteOnly : Prop :=
  ∀ (s : State) (r : FaultRecord), s.status = .faulted r →
    (∀ t, step s ≠ .next t) ∧ (∀ n t, run n s ≠ .next t) ∧
    (∀ prog t, load prog s = .next t → t.status = .faulted r) ∧
    (∀ a v t, hostWriteByte a v s = .next t → t.status = .faulted r) ∧
    (∀ a v t, hostWriteWord a v s = .next t → t.status = .faulted r) ∧
    (∀ x v t, hostWriteReg x v s = .next t → t.status = .faulted r) ∧
    (∀ v t, hostWritePc v s = .next t → t.status = .faulted r) ∧
    construct.status = .ready ∧ (∃ t, reset s = .next t ∧ t.status = .ready) ∧
    (∀ w : State, w.status ≠ .running → ∃ t, hostWriteState w s = .next t ∧ t.status = w.status)
end

