-- ==== Sys2Proof/Laws/PerInstr.lean ====
section
/-! SUPPORT. Per-instruction laws. Family RomRow: the ROM's row for an instruction's opcode is a row of its mnemonic, its
mode, its family and its length (spec/30_encoding.md R50 against the encoder's table, R45, R49), and its mnemonic and operand
name it. -/

namespace Sys2Proof.Laws

/-- What the ROM holds for an instruction, and that its form is the instruction. -/
def RomRow.Statement (i : Instr) : Prop :=
  (romLookup opcodeRom i.opcode).map (fun d => (d.opcode, d.mnemonic, d.family, d.mode, d.length))
      = some (i.opcode, i.mnemonic, i.mnemonic.family, i.mode, i.length)
    ∧ Instr.ofForm i.mnemonic i.operand = some i

theorem RomRow.ldaImmediate (b : Byte) : RomRow.Statement (.ldaImmediate b) := ⟨rfl, rfl⟩
theorem RomRow.ldaZeroPage (b : Byte) : RomRow.Statement (.ldaZeroPage b) := ⟨rfl, rfl⟩
theorem RomRow.ldaZeroPageX (b : Byte) : RomRow.Statement (.ldaZeroPageX b) := ⟨rfl, rfl⟩
theorem RomRow.ldaAbsolute (w : Addr) : RomRow.Statement (.ldaAbsolute w) := ⟨rfl, rfl⟩
theorem RomRow.ldaAbsoluteX (w : Addr) : RomRow.Statement (.ldaAbsoluteX w) := ⟨rfl, rfl⟩
theorem RomRow.ldaAbsoluteY (w : Addr) : RomRow.Statement (.ldaAbsoluteY w) := ⟨rfl, rfl⟩
theorem RomRow.ldaIndirectX (b : Byte) : RomRow.Statement (.ldaIndirectX b) := ⟨rfl, rfl⟩
theorem RomRow.ldaIndirectY (b : Byte) : RomRow.Statement (.ldaIndirectY b) := ⟨rfl, rfl⟩
theorem RomRow.ldxImmediate (b : Byte) : RomRow.Statement (.ldxImmediate b) := ⟨rfl, rfl⟩
theorem RomRow.ldxZeroPage (b : Byte) : RomRow.Statement (.ldxZeroPage b) := ⟨rfl, rfl⟩
theorem RomRow.ldxZeroPageY (b : Byte) : RomRow.Statement (.ldxZeroPageY b) := ⟨rfl, rfl⟩
theorem RomRow.ldxAbsolute (w : Addr) : RomRow.Statement (.ldxAbsolute w) := ⟨rfl, rfl⟩
theorem RomRow.ldxAbsoluteY (w : Addr) : RomRow.Statement (.ldxAbsoluteY w) := ⟨rfl, rfl⟩
theorem RomRow.ldyImmediate (b : Byte) : RomRow.Statement (.ldyImmediate b) := ⟨rfl, rfl⟩
theorem RomRow.ldyZeroPage (b : Byte) : RomRow.Statement (.ldyZeroPage b) := ⟨rfl, rfl⟩
theorem RomRow.ldyZeroPageX (b : Byte) : RomRow.Statement (.ldyZeroPageX b) := ⟨rfl, rfl⟩
theorem RomRow.ldyAbsolute (w : Addr) : RomRow.Statement (.ldyAbsolute w) := ⟨rfl, rfl⟩
theorem RomRow.ldyAbsoluteX (w : Addr) : RomRow.Statement (.ldyAbsoluteX w) := ⟨rfl, rfl⟩
theorem RomRow.staZeroPage (b : Byte) : RomRow.Statement (.staZeroPage b) := ⟨rfl, rfl⟩
theorem RomRow.staZeroPageX (b : Byte) : RomRow.Statement (.staZeroPageX b) := ⟨rfl, rfl⟩
theorem RomRow.staAbsolute (w : Addr) : RomRow.Statement (.staAbsolute w) := ⟨rfl, rfl⟩
theorem RomRow.staAbsoluteX (w : Addr) : RomRow.Statement (.staAbsoluteX w) := ⟨rfl, rfl⟩
theorem RomRow.staAbsoluteY (w : Addr) : RomRow.Statement (.staAbsoluteY w) := ⟨rfl, rfl⟩
theorem RomRow.staIndirectX (b : Byte) : RomRow.Statement (.staIndirectX b) := ⟨rfl, rfl⟩
theorem RomRow.staIndirectY (b : Byte) : RomRow.Statement (.staIndirectY b) := ⟨rfl, rfl⟩
theorem RomRow.stxZeroPage (b : Byte) : RomRow.Statement (.stxZeroPage b) := ⟨rfl, rfl⟩
theorem RomRow.stxZeroPageY (b : Byte) : RomRow.Statement (.stxZeroPageY b) := ⟨rfl, rfl⟩
theorem RomRow.stxAbsolute (w : Addr) : RomRow.Statement (.stxAbsolute w) := ⟨rfl, rfl⟩
theorem RomRow.styZeroPage (b : Byte) : RomRow.Statement (.styZeroPage b) := ⟨rfl, rfl⟩
theorem RomRow.styZeroPageX (b : Byte) : RomRow.Statement (.styZeroPageX b) := ⟨rfl, rfl⟩
theorem RomRow.styAbsolute (w : Addr) : RomRow.Statement (.styAbsolute w) := ⟨rfl, rfl⟩
theorem RomRow.tax : RomRow.Statement .tax := ⟨rfl, rfl⟩
theorem RomRow.txa : RomRow.Statement .txa := ⟨rfl, rfl⟩
theorem RomRow.tay : RomRow.Statement .tay := ⟨rfl, rfl⟩
theorem RomRow.tya : RomRow.Statement .tya := ⟨rfl, rfl⟩
theorem RomRow.adcImmediate (b : Byte) : RomRow.Statement (.adcImmediate b) := ⟨rfl, rfl⟩
theorem RomRow.adcZeroPage (b : Byte) : RomRow.Statement (.adcZeroPage b) := ⟨rfl, rfl⟩
theorem RomRow.adcZeroPageX (b : Byte) : RomRow.Statement (.adcZeroPageX b) := ⟨rfl, rfl⟩
theorem RomRow.adcAbsolute (w : Addr) : RomRow.Statement (.adcAbsolute w) := ⟨rfl, rfl⟩
theorem RomRow.adcAbsoluteX (w : Addr) : RomRow.Statement (.adcAbsoluteX w) := ⟨rfl, rfl⟩
theorem RomRow.adcAbsoluteY (w : Addr) : RomRow.Statement (.adcAbsoluteY w) := ⟨rfl, rfl⟩
theorem RomRow.adcIndirectX (b : Byte) : RomRow.Statement (.adcIndirectX b) := ⟨rfl, rfl⟩
theorem RomRow.adcIndirectY (b : Byte) : RomRow.Statement (.adcIndirectY b) := ⟨rfl, rfl⟩
theorem RomRow.sbcImmediate (b : Byte) : RomRow.Statement (.sbcImmediate b) := ⟨rfl, rfl⟩
theorem RomRow.sbcZeroPage (b : Byte) : RomRow.Statement (.sbcZeroPage b) := ⟨rfl, rfl⟩
theorem RomRow.sbcZeroPageX (b : Byte) : RomRow.Statement (.sbcZeroPageX b) := ⟨rfl, rfl⟩
theorem RomRow.sbcAbsolute (w : Addr) : RomRow.Statement (.sbcAbsolute w) := ⟨rfl, rfl⟩
theorem RomRow.sbcAbsoluteX (w : Addr) : RomRow.Statement (.sbcAbsoluteX w) := ⟨rfl, rfl⟩
theorem RomRow.sbcAbsoluteY (w : Addr) : RomRow.Statement (.sbcAbsoluteY w) := ⟨rfl, rfl⟩
theorem RomRow.sbcIndirectX (b : Byte) : RomRow.Statement (.sbcIndirectX b) := ⟨rfl, rfl⟩
theorem RomRow.sbcIndirectY (b : Byte) : RomRow.Statement (.sbcIndirectY b) := ⟨rfl, rfl⟩
theorem RomRow.incZeroPage (b : Byte) : RomRow.Statement (.incZeroPage b) := ⟨rfl, rfl⟩
theorem RomRow.incZeroPageX (b : Byte) : RomRow.Statement (.incZeroPageX b) := ⟨rfl, rfl⟩
theorem RomRow.incAbsolute (w : Addr) : RomRow.Statement (.incAbsolute w) := ⟨rfl, rfl⟩
theorem RomRow.incAbsoluteX (w : Addr) : RomRow.Statement (.incAbsoluteX w) := ⟨rfl, rfl⟩
theorem RomRow.decZeroPage (b : Byte) : RomRow.Statement (.decZeroPage b) := ⟨rfl, rfl⟩
theorem RomRow.decZeroPageX (b : Byte) : RomRow.Statement (.decZeroPageX b) := ⟨rfl, rfl⟩
theorem RomRow.decAbsolute (w : Addr) : RomRow.Statement (.decAbsolute w) := ⟨rfl, rfl⟩
theorem RomRow.decAbsoluteX (w : Addr) : RomRow.Statement (.decAbsoluteX w) := ⟨rfl, rfl⟩
theorem RomRow.inx : RomRow.Statement .inx := ⟨rfl, rfl⟩
theorem RomRow.dex : RomRow.Statement .dex := ⟨rfl, rfl⟩
theorem RomRow.iny : RomRow.Statement .iny := ⟨rfl, rfl⟩
theorem RomRow.dey : RomRow.Statement .dey := ⟨rfl, rfl⟩
theorem RomRow.aslAccumulator : RomRow.Statement .aslAccumulator := ⟨rfl, rfl⟩
theorem RomRow.aslZeroPage (b : Byte) : RomRow.Statement (.aslZeroPage b) := ⟨rfl, rfl⟩
theorem RomRow.aslZeroPageX (b : Byte) : RomRow.Statement (.aslZeroPageX b) := ⟨rfl, rfl⟩
theorem RomRow.aslAbsolute (w : Addr) : RomRow.Statement (.aslAbsolute w) := ⟨rfl, rfl⟩
theorem RomRow.aslAbsoluteX (w : Addr) : RomRow.Statement (.aslAbsoluteX w) := ⟨rfl, rfl⟩
theorem RomRow.lsrAccumulator : RomRow.Statement .lsrAccumulator := ⟨rfl, rfl⟩
theorem RomRow.lsrZeroPage (b : Byte) : RomRow.Statement (.lsrZeroPage b) := ⟨rfl, rfl⟩
theorem RomRow.lsrZeroPageX (b : Byte) : RomRow.Statement (.lsrZeroPageX b) := ⟨rfl, rfl⟩
theorem RomRow.lsrAbsolute (w : Addr) : RomRow.Statement (.lsrAbsolute w) := ⟨rfl, rfl⟩
theorem RomRow.lsrAbsoluteX (w : Addr) : RomRow.Statement (.lsrAbsoluteX w) := ⟨rfl, rfl⟩
theorem RomRow.rolAccumulator : RomRow.Statement .rolAccumulator := ⟨rfl, rfl⟩
theorem RomRow.rolZeroPage (b : Byte) : RomRow.Statement (.rolZeroPage b) := ⟨rfl, rfl⟩
theorem RomRow.rolZeroPageX (b : Byte) : RomRow.Statement (.rolZeroPageX b) := ⟨rfl, rfl⟩
theorem RomRow.rolAbsolute (w : Addr) : RomRow.Statement (.rolAbsolute w) := ⟨rfl, rfl⟩
theorem RomRow.rolAbsoluteX (w : Addr) : RomRow.Statement (.rolAbsoluteX w) := ⟨rfl, rfl⟩
theorem RomRow.rorAccumulator : RomRow.Statement .rorAccumulator := ⟨rfl, rfl⟩
theorem RomRow.rorZeroPage (b : Byte) : RomRow.Statement (.rorZeroPage b) := ⟨rfl, rfl⟩
theorem RomRow.rorZeroPageX (b : Byte) : RomRow.Statement (.rorZeroPageX b) := ⟨rfl, rfl⟩
theorem RomRow.rorAbsolute (w : Addr) : RomRow.Statement (.rorAbsolute w) := ⟨rfl, rfl⟩
theorem RomRow.rorAbsoluteX (w : Addr) : RomRow.Statement (.rorAbsoluteX w) := ⟨rfl, rfl⟩
theorem RomRow.andImmediate (b : Byte) : RomRow.Statement (.andImmediate b) := ⟨rfl, rfl⟩
theorem RomRow.andZeroPage (b : Byte) : RomRow.Statement (.andZeroPage b) := ⟨rfl, rfl⟩
theorem RomRow.andZeroPageX (b : Byte) : RomRow.Statement (.andZeroPageX b) := ⟨rfl, rfl⟩
theorem RomRow.andAbsolute (w : Addr) : RomRow.Statement (.andAbsolute w) := ⟨rfl, rfl⟩
theorem RomRow.andAbsoluteX (w : Addr) : RomRow.Statement (.andAbsoluteX w) := ⟨rfl, rfl⟩
theorem RomRow.andAbsoluteY (w : Addr) : RomRow.Statement (.andAbsoluteY w) := ⟨rfl, rfl⟩
theorem RomRow.andIndirectX (b : Byte) : RomRow.Statement (.andIndirectX b) := ⟨rfl, rfl⟩
theorem RomRow.andIndirectY (b : Byte) : RomRow.Statement (.andIndirectY b) := ⟨rfl, rfl⟩
theorem RomRow.oraImmediate (b : Byte) : RomRow.Statement (.oraImmediate b) := ⟨rfl, rfl⟩
theorem RomRow.oraZeroPage (b : Byte) : RomRow.Statement (.oraZeroPage b) := ⟨rfl, rfl⟩
theorem RomRow.oraZeroPageX (b : Byte) : RomRow.Statement (.oraZeroPageX b) := ⟨rfl, rfl⟩
theorem RomRow.oraAbsolute (w : Addr) : RomRow.Statement (.oraAbsolute w) := ⟨rfl, rfl⟩
theorem RomRow.oraAbsoluteX (w : Addr) : RomRow.Statement (.oraAbsoluteX w) := ⟨rfl, rfl⟩
theorem RomRow.oraAbsoluteY (w : Addr) : RomRow.Statement (.oraAbsoluteY w) := ⟨rfl, rfl⟩
theorem RomRow.oraIndirectX (b : Byte) : RomRow.Statement (.oraIndirectX b) := ⟨rfl, rfl⟩
theorem RomRow.oraIndirectY (b : Byte) : RomRow.Statement (.oraIndirectY b) := ⟨rfl, rfl⟩
theorem RomRow.eorImmediate (b : Byte) : RomRow.Statement (.eorImmediate b) := ⟨rfl, rfl⟩
theorem RomRow.eorZeroPage (b : Byte) : RomRow.Statement (.eorZeroPage b) := ⟨rfl, rfl⟩
theorem RomRow.eorZeroPageX (b : Byte) : RomRow.Statement (.eorZeroPageX b) := ⟨rfl, rfl⟩
theorem RomRow.eorAbsolute (w : Addr) : RomRow.Statement (.eorAbsolute w) := ⟨rfl, rfl⟩
theorem RomRow.eorAbsoluteX (w : Addr) : RomRow.Statement (.eorAbsoluteX w) := ⟨rfl, rfl⟩
theorem RomRow.eorAbsoluteY (w : Addr) : RomRow.Statement (.eorAbsoluteY w) := ⟨rfl, rfl⟩
theorem RomRow.eorIndirectX (b : Byte) : RomRow.Statement (.eorIndirectX b) := ⟨rfl, rfl⟩
theorem RomRow.eorIndirectY (b : Byte) : RomRow.Statement (.eorIndirectY b) := ⟨rfl, rfl⟩
theorem RomRow.brk : RomRow.Statement .brk := ⟨rfl, rfl⟩

/-- Every instruction has its row. -/
theorem RomRow.all (i : Instr) : RomRow.Statement i := by
  cases i

  case ldaImmediate b => exact RomRow.ldaImmediate b
  case ldaZeroPage b => exact RomRow.ldaZeroPage b
  case ldaZeroPageX b => exact RomRow.ldaZeroPageX b
  case ldaAbsolute w => exact RomRow.ldaAbsolute w
  case ldaAbsoluteX w => exact RomRow.ldaAbsoluteX w
  case ldaAbsoluteY w => exact RomRow.ldaAbsoluteY w
  case ldaIndirectX b => exact RomRow.ldaIndirectX b
  case ldaIndirectY b => exact RomRow.ldaIndirectY b
  case ldxImmediate b => exact RomRow.ldxImmediate b
  case ldxZeroPage b => exact RomRow.ldxZeroPage b
  case ldxZeroPageY b => exact RomRow.ldxZeroPageY b
  case ldxAbsolute w => exact RomRow.ldxAbsolute w
  case ldxAbsoluteY w => exact RomRow.ldxAbsoluteY w
  case ldyImmediate b => exact RomRow.ldyImmediate b
  case ldyZeroPage b => exact RomRow.ldyZeroPage b
  case ldyZeroPageX b => exact RomRow.ldyZeroPageX b
  case ldyAbsolute w => exact RomRow.ldyAbsolute w
  case ldyAbsoluteX w => exact RomRow.ldyAbsoluteX w
  case staZeroPage b => exact RomRow.staZeroPage b
  case staZeroPageX b => exact RomRow.staZeroPageX b
  case staAbsolute w => exact RomRow.staAbsolute w
  case staAbsoluteX w => exact RomRow.staAbsoluteX w
  case staAbsoluteY w => exact RomRow.staAbsoluteY w
  case staIndirectX b => exact RomRow.staIndirectX b
  case staIndirectY b => exact RomRow.staIndirectY b
  case stxZeroPage b => exact RomRow.stxZeroPage b
  case stxZeroPageY b => exact RomRow.stxZeroPageY b
  case stxAbsolute w => exact RomRow.stxAbsolute w
  case styZeroPage b => exact RomRow.styZeroPage b
  case styZeroPageX b => exact RomRow.styZeroPageX b
  case styAbsolute w => exact RomRow.styAbsolute w
  case tax => exact RomRow.tax
  case txa => exact RomRow.txa
  case tay => exact RomRow.tay
  case tya => exact RomRow.tya
  case adcImmediate b => exact RomRow.adcImmediate b
  case adcZeroPage b => exact RomRow.adcZeroPage b
  case adcZeroPageX b => exact RomRow.adcZeroPageX b
  case adcAbsolute w => exact RomRow.adcAbsolute w
  case adcAbsoluteX w => exact RomRow.adcAbsoluteX w
  case adcAbsoluteY w => exact RomRow.adcAbsoluteY w
  case adcIndirectX b => exact RomRow.adcIndirectX b
  case adcIndirectY b => exact RomRow.adcIndirectY b
  case sbcImmediate b => exact RomRow.sbcImmediate b
  case sbcZeroPage b => exact RomRow.sbcZeroPage b
  case sbcZeroPageX b => exact RomRow.sbcZeroPageX b
  case sbcAbsolute w => exact RomRow.sbcAbsolute w
  case sbcAbsoluteX w => exact RomRow.sbcAbsoluteX w
  case sbcAbsoluteY w => exact RomRow.sbcAbsoluteY w
  case sbcIndirectX b => exact RomRow.sbcIndirectX b
  case sbcIndirectY b => exact RomRow.sbcIndirectY b
  case incZeroPage b => exact RomRow.incZeroPage b
  case incZeroPageX b => exact RomRow.incZeroPageX b
  case incAbsolute w => exact RomRow.incAbsolute w
  case incAbsoluteX w => exact RomRow.incAbsoluteX w
  case decZeroPage b => exact RomRow.decZeroPage b
  case decZeroPageX b => exact RomRow.decZeroPageX b
  case decAbsolute w => exact RomRow.decAbsolute w
  case decAbsoluteX w => exact RomRow.decAbsoluteX w
  case inx => exact RomRow.inx
  case dex => exact RomRow.dex
  case iny => exact RomRow.iny
  case dey => exact RomRow.dey
  case aslAccumulator => exact RomRow.aslAccumulator
  case aslZeroPage b => exact RomRow.aslZeroPage b
  case aslZeroPageX b => exact RomRow.aslZeroPageX b
  case aslAbsolute w => exact RomRow.aslAbsolute w
  case aslAbsoluteX w => exact RomRow.aslAbsoluteX w
  case lsrAccumulator => exact RomRow.lsrAccumulator
  case lsrZeroPage b => exact RomRow.lsrZeroPage b
  case lsrZeroPageX b => exact RomRow.lsrZeroPageX b
  case lsrAbsolute w => exact RomRow.lsrAbsolute w
  case lsrAbsoluteX w => exact RomRow.lsrAbsoluteX w
  case rolAccumulator => exact RomRow.rolAccumulator
  case rolZeroPage b => exact RomRow.rolZeroPage b
  case rolZeroPageX b => exact RomRow.rolZeroPageX b
  case rolAbsolute w => exact RomRow.rolAbsolute w
  case rolAbsoluteX w => exact RomRow.rolAbsoluteX w
  case rorAccumulator => exact RomRow.rorAccumulator
  case rorZeroPage b => exact RomRow.rorZeroPage b
  case rorZeroPageX b => exact RomRow.rorZeroPageX b
  case rorAbsolute w => exact RomRow.rorAbsolute w
  case rorAbsoluteX w => exact RomRow.rorAbsoluteX w
  case andImmediate b => exact RomRow.andImmediate b
  case andZeroPage b => exact RomRow.andZeroPage b
  case andZeroPageX b => exact RomRow.andZeroPageX b
  case andAbsolute w => exact RomRow.andAbsolute w
  case andAbsoluteX w => exact RomRow.andAbsoluteX w
  case andAbsoluteY w => exact RomRow.andAbsoluteY w
  case andIndirectX b => exact RomRow.andIndirectX b
  case andIndirectY b => exact RomRow.andIndirectY b
  case oraImmediate b => exact RomRow.oraImmediate b
  case oraZeroPage b => exact RomRow.oraZeroPage b
  case oraZeroPageX b => exact RomRow.oraZeroPageX b
  case oraAbsolute w => exact RomRow.oraAbsolute w
  case oraAbsoluteX w => exact RomRow.oraAbsoluteX w
  case oraAbsoluteY w => exact RomRow.oraAbsoluteY w
  case oraIndirectX b => exact RomRow.oraIndirectX b
  case oraIndirectY b => exact RomRow.oraIndirectY b
  case eorImmediate b => exact RomRow.eorImmediate b
  case eorZeroPage b => exact RomRow.eorZeroPage b
  case eorZeroPageX b => exact RomRow.eorZeroPageX b
  case eorAbsolute w => exact RomRow.eorAbsolute w
  case eorAbsoluteX w => exact RomRow.eorAbsoluteX w
  case eorAbsoluteY w => exact RomRow.eorAbsoluteY w
  case eorIndirectX b => exact RomRow.eorIndirectX b
  case eorIndirectY b => exact RomRow.eorIndirectY b
  case brk => exact RomRow.brk

end Sys2Proof.Laws
end

