-- ==== Sys2Proof/Laws/Decode.lean ====
section
/-! SUPPORT. The laws of operands as bytes, and of the ROM. -/

namespace Sys2Proof

open Machine

@[simp] theorem Machine.joinBytes_high_low (w : Addr) : joinBytes (highByte w) (lowByte w) = w := by
  apply BitVec.eq_of_getLsbD_eq
  intro i hi
  simp only [joinBytes, highByte, lowByte, BitVec.getLsbD_append, BitVec.getLsbD_extractLsb']
  by_cases h : i < 8
  · simp [h]
  · simp [h, show i - 8 < 8 by omega, show 8 + (i - 8) = i by omega]

@[simp] theorem Machine.lowByte_joinBytes (hi lo : Byte) : lowByte (joinBytes hi lo) = lo := by
  apply BitVec.eq_of_getLsbD_eq
  intro i h
  simp only [joinBytes, lowByte, BitVec.getLsbD_append, BitVec.getLsbD_extractLsb']
  simp [h]

@[simp] theorem Machine.highByte_joinBytes (hi lo : Byte) : highByte (joinBytes hi lo) = hi := by
  apply BitVec.eq_of_getLsbD_eq
  intro i h
  simp only [joinBytes, highByte, BitVec.getLsbD_append, BitVec.getLsbD_extractLsb']
  simp [h]

/-- The word `hi : lo` as a number: `hi * 256 + lo` (spec/00_scope.md R11). -/
theorem Machine.joinBytes_toNat (hi lo : Byte) : (joinBytes hi lo).toNat = hi.toNat * 256 + lo.toNat := by
  have := lo.isLt
  simp only [joinBytes, BitVec.toNat_append, Nat.shiftLeft_eq]
  rw [Nat.mul_comm, ← Nat.two_pow_add_eq_or_of_lt this]

/-- The mode of the operand a mode makes is that mode. -/
@[simp] theorem AddrMode.operandOf_mode (m : AddrMode) (b1 b2 : Byte) : (m.operandOf b1 b2).mode = m := by
  cases m <;> rfl

/-- An operand's bytes are as many as its mode has. -/
theorem Operand.bytes_length (o : Operand) : o.bytes.length = o.mode.operandBytes := by cases o <;> rfl

/-- Taking an operand off its own bytes gives it back. -/
theorem takeOperand_bytes (o : Operand) (rest : List Byte) : takeOperand o.mode (o.bytes ++ rest) = some (o, rest) := by
  cases o <;> simp [takeOperand, Operand.mode, Operand.bytes, AddrMode.operandBytes, AddrMode.operandOf]

/-- What taking an operand answers: an operand of the mode, and the bytes it took. -/
theorem takeOperand_eq {mode : AddrMode} {bs rest : List Byte} {o : Operand}
    (h : takeOperand mode bs = some (o, rest)) : o.mode = mode ∧ bs = o.bytes ++ rest := by
  cases mode <;> rcases bs with _ | ⟨b1, _ | ⟨b2, bs⟩⟩ <;>
    simp_all [takeOperand, AddrMode.operandBytes, AddrMode.operandOf] <;> obtain ⟨rfl, rfl⟩ := h <;>
    simp [Operand.mode, Operand.bytes]

/-- A lookup answers a row of the ROM with that opcode. -/
theorem romLookup_some {rom : List Descriptor} {op : Byte} {d : Descriptor} (h : romLookup rom op = some d) :
    d ∈ rom ∧ d.opcode = op :=
  ⟨List.mem_of_find?_eq_some h, by simpa using List.find?_some h⟩

/-- The row the ROM holds for an instruction's opcode. -/
theorem romLookup_opcode (i : Instr) : ∃ d, romLookup opcodeRom i.opcode = some d ∧ d.opcode = i.opcode ∧
    d.mnemonic = i.mnemonic ∧ d.family = i.mnemonic.family ∧ d.mode = i.mode ∧ d.length = i.length := by
  have h := (Laws.RomRow.all i).1
  cases hd : romLookup opcodeRom i.opcode with
  | none => simp [hd] at h
  | some d =>
    simp only [hd, Option.map_some, Option.some.injEq, Prod.mk.injEq] at h
    exact ⟨d, rfl, h⟩

/-- What a form names has that mnemonic and that operand. -/
theorem Instr.ofForm_eq {m : Mnemonic} {o : Operand} {i : Instr} (h : Instr.ofForm m o = some i) :
    i.mnemonic = m ∧ i.operand = o := by
  cases m <;> cases o <;>
    simp [Instr.ofForm, formLda, formLdx, formLdy, formSta, formStx, formSty, formTax, formTxa, formTay, formTya,
      formAdc, formSbc, formInc, formDec, formInx, formDex, formIny, formDey, formAsl, formLsr, formRol, formRor,
      formAnd, formOra, formEor, formBrk] at h <;> subst h <;> exact ⟨rfl, rfl⟩

/-- A mnemonic and an operand whose mode it has name an instruction. -/
theorem Instr.ofForm_of_accepts {m : Mnemonic} {o : Operand} (h : m.accepts o.mode = true) :
    ∃ i, Instr.ofForm m o = some i := by
  cases o <;> cases m <;> first | exact ⟨_, rfl⟩ | (exact absurd (show false = true from h) (by decide))

/-- The encoding of an instruction has its length. -/
theorem encode_length (i : Instr) : (encode i).length = i.length := by
  simp [encode, Operand.bytes_length, Instr.length, AddrMode.length, Instr.mode, Nat.add_comm]

/-- The ROM without EOR: the rows of the other mnemonics (spec/30_encoding.md R53). -/
theorem romLookup_without_eor (op : Byte) :
    romLookup (opcodeRomWith false) op = (romLookup opcodeRom op).filter fun d => d.mnemonic != .EOR := by
  revert op
  decide +kernel

/-- A row's mode is one its mnemonic has, and its length the mode's. -/
theorem rom_row {d : Descriptor} (h : d ∈ opcodeRom) : d.mnemonic.accepts d.mode = true ∧ d.length = d.mode.length := by
  have key : ∀ d ∈ opcodeRom, d.mnemonic.accepts d.mode = true ∧ d.length = d.mode.length := by decide +kernel
  exact key d h

/-- A row is found again by its mnemonic and mode. -/
theorem rom_row_unique {d e : Descriptor} (hd : d ∈ opcodeRom) (he : e ∈ opcodeRom) (h1 : d.mnemonic = e.mnemonic)
    (h2 : d.mode = e.mode) : d = e := by
  have key : ∀ d ∈ opcodeRom, ∀ e ∈ opcodeRom, d.mnemonic = e.mnemonic → d.mode = e.mode → d = e := by decide +kernel
  exact key d hd e he h1 h2

/-- What a ROM row and the two bytes after the opcode decode to: an instruction with the row's mnemonic, opcode, mode and
length, and the operand the row's mode makes of the bytes. -/
theorem rom_row_form {op : Byte} {d : Descriptor} (hd : romLookup opcodeRom op = some d) (b1 b2 : Byte) :
    ∃ i, Instr.ofForm d.mnemonic (d.mode.operandOf b1 b2) = some i ∧ i.opcode = op ∧ i.mnemonic = d.mnemonic ∧
      i.operand = d.mode.operandOf b1 b2 ∧ i.mode = d.mode ∧ i.length = d.length ∧ d.family = i.mnemonic.family := by
  obtain ⟨hmem, hop⟩ := romLookup_some hd
  obtain ⟨i, hi⟩ := Instr.ofForm_of_accepts (m := d.mnemonic) (o := d.mode.operandOf b1 b2) (by simpa using (rom_row hmem).1)
  obtain ⟨hm, ho⟩ := Instr.ofForm_eq hi
  have hmode : i.mode = d.mode := by simp [Instr.mode, ho]
  obtain ⟨e, he, h1, h2, h3, h4, h5⟩ := romLookup_opcode i
  obtain rfl := rom_row_unique (romLookup_some he).1 hmem (h2.trans hm) (h4.trans hmode)
  exact ⟨i, hi, h1.symm.trans hop, hm, ho, hmode, h5.symm, h3⟩

/-- Decoding an opcode and two more bytes: UnrecognizedOpcode if the byte has no row, else the row's instruction. -/
theorem decode_three (op b1 b2 : Byte) :
    (romLookup opcodeRom op = none ∧ decode [op, b1, b2] = .error (.unrecognizedOpcode op)) ∨
    ∃ d i rest, romLookup opcodeRom op = some d ∧ Instr.ofForm d.mnemonic (d.mode.operandOf b1 b2) = some i ∧
      decode [op, b1, b2] = .ok (i, rest) := by
  cases hd : romLookup opcodeRom op with
  | none => exact .inl ⟨rfl, by simp [decode, decodeWith, hd]⟩
  | some d =>
    obtain ⟨i, hi, -⟩ := rom_row_form hd b1 b2
    refine .inr ⟨d, i, [b1, b2].drop d.mode.operandBytes, rfl, hi, ?_⟩
    cases hm : d.mode <;> rw [hm] at hi <;> simp only [AddrMode.operandOf] at hi <;>
      simp [decode, decodeWith, hd, hm, takeOperand, AddrMode.operandBytes, AddrMode.operandOf, hi]

end Sys2Proof
end

