-- ==== Sys2Proof/Laws/State.lean ====
section
/-! SUPPORT. One lemma per field per update of State, each true by rfl, so that no proof unfolds a record update. -/

namespace Sys2Proof.Machine

@[simp] theorem State.setA_a (s : State) (v : Byte) : (s.setA v).a = v := rfl
@[simp] theorem State.setA_x (s : State) (v : Byte) : (s.setA v).x = s.x := rfl
@[simp] theorem State.setA_y (s : State) (v : Byte) : (s.setA v).y = s.y := rfl
@[simp] theorem State.setA_p (s : State) (v : Byte) : (s.setA v).p = s.p := rfl
@[simp] theorem State.setA_sp (s : State) (v : Byte) : (s.setA v).sp = s.sp := rfl
@[simp] theorem State.setA_pc (s : State) (v : Byte) : (s.setA v).pc = s.pc := rfl
@[simp] theorem State.setA_mem (s : State) (v : Byte) : (s.setA v).mem = s.mem := rfl
@[simp] theorem State.setA_status (s : State) (v : Byte) : (s.setA v).status = s.status := rfl
@[simp] theorem State.setA_freeCount (s : State) (v : Byte) : (s.setA v).freeCount = s.freeCount := rfl

@[simp] theorem State.setX_a (s : State) (v : Byte) : (s.setX v).a = s.a := rfl
@[simp] theorem State.setX_x (s : State) (v : Byte) : (s.setX v).x = v := rfl
@[simp] theorem State.setX_y (s : State) (v : Byte) : (s.setX v).y = s.y := rfl
@[simp] theorem State.setX_p (s : State) (v : Byte) : (s.setX v).p = s.p := rfl
@[simp] theorem State.setX_sp (s : State) (v : Byte) : (s.setX v).sp = s.sp := rfl
@[simp] theorem State.setX_pc (s : State) (v : Byte) : (s.setX v).pc = s.pc := rfl
@[simp] theorem State.setX_mem (s : State) (v : Byte) : (s.setX v).mem = s.mem := rfl
@[simp] theorem State.setX_status (s : State) (v : Byte) : (s.setX v).status = s.status := rfl
@[simp] theorem State.setX_freeCount (s : State) (v : Byte) : (s.setX v).freeCount = s.freeCount := rfl

@[simp] theorem State.setY_a (s : State) (v : Byte) : (s.setY v).a = s.a := rfl
@[simp] theorem State.setY_x (s : State) (v : Byte) : (s.setY v).x = s.x := rfl
@[simp] theorem State.setY_y (s : State) (v : Byte) : (s.setY v).y = v := rfl
@[simp] theorem State.setY_p (s : State) (v : Byte) : (s.setY v).p = s.p := rfl
@[simp] theorem State.setY_sp (s : State) (v : Byte) : (s.setY v).sp = s.sp := rfl
@[simp] theorem State.setY_pc (s : State) (v : Byte) : (s.setY v).pc = s.pc := rfl
@[simp] theorem State.setY_mem (s : State) (v : Byte) : (s.setY v).mem = s.mem := rfl
@[simp] theorem State.setY_status (s : State) (v : Byte) : (s.setY v).status = s.status := rfl
@[simp] theorem State.setY_freeCount (s : State) (v : Byte) : (s.setY v).freeCount = s.freeCount := rfl

@[simp] theorem State.setP_a (s : State) (v : Byte) : (s.setP v).a = s.a := rfl
@[simp] theorem State.setP_x (s : State) (v : Byte) : (s.setP v).x = s.x := rfl
@[simp] theorem State.setP_y (s : State) (v : Byte) : (s.setP v).y = s.y := rfl
@[simp] theorem State.setP_p (s : State) (v : Byte) : (s.setP v).p = v := rfl
@[simp] theorem State.setP_sp (s : State) (v : Byte) : (s.setP v).sp = s.sp := rfl
@[simp] theorem State.setP_pc (s : State) (v : Byte) : (s.setP v).pc = s.pc := rfl
@[simp] theorem State.setP_mem (s : State) (v : Byte) : (s.setP v).mem = s.mem := rfl
@[simp] theorem State.setP_status (s : State) (v : Byte) : (s.setP v).status = s.status := rfl
@[simp] theorem State.setP_freeCount (s : State) (v : Byte) : (s.setP v).freeCount = s.freeCount := rfl

@[simp] theorem State.setSp_a (s : State) (v : Byte) : (s.setSp v).a = s.a := rfl
@[simp] theorem State.setSp_x (s : State) (v : Byte) : (s.setSp v).x = s.x := rfl
@[simp] theorem State.setSp_y (s : State) (v : Byte) : (s.setSp v).y = s.y := rfl
@[simp] theorem State.setSp_p (s : State) (v : Byte) : (s.setSp v).p = s.p := rfl
@[simp] theorem State.setSp_sp (s : State) (v : Byte) : (s.setSp v).sp = v := rfl
@[simp] theorem State.setSp_pc (s : State) (v : Byte) : (s.setSp v).pc = s.pc := rfl
@[simp] theorem State.setSp_mem (s : State) (v : Byte) : (s.setSp v).mem = s.mem := rfl
@[simp] theorem State.setSp_status (s : State) (v : Byte) : (s.setSp v).status = s.status := rfl
@[simp] theorem State.setSp_freeCount (s : State) (v : Byte) : (s.setSp v).freeCount = s.freeCount := rfl

@[simp] theorem State.setPc_a (s : State) (v : Addr) : (s.setPc v).a = s.a := rfl
@[simp] theorem State.setPc_x (s : State) (v : Addr) : (s.setPc v).x = s.x := rfl
@[simp] theorem State.setPc_y (s : State) (v : Addr) : (s.setPc v).y = s.y := rfl
@[simp] theorem State.setPc_p (s : State) (v : Addr) : (s.setPc v).p = s.p := rfl
@[simp] theorem State.setPc_sp (s : State) (v : Addr) : (s.setPc v).sp = s.sp := rfl
@[simp] theorem State.setPc_pc (s : State) (v : Addr) : (s.setPc v).pc = v := rfl
@[simp] theorem State.setPc_mem (s : State) (v : Addr) : (s.setPc v).mem = s.mem := rfl
@[simp] theorem State.setPc_status (s : State) (v : Addr) : (s.setPc v).status = s.status := rfl
@[simp] theorem State.setPc_freeCount (s : State) (v : Addr) : (s.setPc v).freeCount = s.freeCount := rfl

@[simp] theorem State.setMem_a (s : State) (v : Memory) : (s.setMem v).a = s.a := rfl
@[simp] theorem State.setMem_x (s : State) (v : Memory) : (s.setMem v).x = s.x := rfl
@[simp] theorem State.setMem_y (s : State) (v : Memory) : (s.setMem v).y = s.y := rfl
@[simp] theorem State.setMem_p (s : State) (v : Memory) : (s.setMem v).p = s.p := rfl
@[simp] theorem State.setMem_sp (s : State) (v : Memory) : (s.setMem v).sp = s.sp := rfl
@[simp] theorem State.setMem_pc (s : State) (v : Memory) : (s.setMem v).pc = s.pc := rfl
@[simp] theorem State.setMem_mem (s : State) (v : Memory) : (s.setMem v).mem = v := rfl
@[simp] theorem State.setMem_status (s : State) (v : Memory) : (s.setMem v).status = s.status := rfl
@[simp] theorem State.setMem_freeCount (s : State) (v : Memory) : (s.setMem v).freeCount = s.freeCount := rfl

@[simp] theorem State.setStatus_a (s : State) (v : Status) : (s.setStatus v).a = s.a := rfl
@[simp] theorem State.setStatus_x (s : State) (v : Status) : (s.setStatus v).x = s.x := rfl
@[simp] theorem State.setStatus_y (s : State) (v : Status) : (s.setStatus v).y = s.y := rfl
@[simp] theorem State.setStatus_p (s : State) (v : Status) : (s.setStatus v).p = s.p := rfl
@[simp] theorem State.setStatus_sp (s : State) (v : Status) : (s.setStatus v).sp = s.sp := rfl
@[simp] theorem State.setStatus_pc (s : State) (v : Status) : (s.setStatus v).pc = s.pc := rfl
@[simp] theorem State.setStatus_mem (s : State) (v : Status) : (s.setStatus v).mem = s.mem := rfl
@[simp] theorem State.setStatus_status (s : State) (v : Status) : (s.setStatus v).status = v := rfl
@[simp] theorem State.setStatus_freeCount (s : State) (v : Status) : (s.setStatus v).freeCount = s.freeCount := rfl

@[simp] theorem State.atOperand_a (s : State) : s.atOperand.a = s.a := rfl
@[simp] theorem State.atOperand_x (s : State) : s.atOperand.x = s.x := rfl
@[simp] theorem State.atOperand_y (s : State) : s.atOperand.y = s.y := rfl
@[simp] theorem State.atOperand_p (s : State) : s.atOperand.p = s.p := rfl
@[simp] theorem State.atOperand_sp (s : State) : s.atOperand.sp = s.sp := rfl
@[simp] theorem State.atOperand_pc (s : State) : s.atOperand.pc = s.pc + 1 := rfl
@[simp] theorem State.atOperand_mem (s : State) : s.atOperand.mem = s.mem := rfl
@[simp] theorem State.atOperand_status (s : State) : s.atOperand.status = s.status := rfl
@[simp] theorem State.atOperand_freeCount (s : State) : s.atOperand.freeCount = s.freeCount := rfl

@[simp] theorem State.halt_a (s : State) : s.halt.a = s.a := rfl
@[simp] theorem State.halt_x (s : State) : s.halt.x = s.x := rfl
@[simp] theorem State.halt_y (s : State) : s.halt.y = s.y := rfl
@[simp] theorem State.halt_p (s : State) : s.halt.p = s.p := rfl
@[simp] theorem State.halt_sp (s : State) : s.halt.sp = s.sp := rfl
@[simp] theorem State.halt_pc (s : State) : s.halt.pc = s.pc := rfl
@[simp] theorem State.halt_mem (s : State) : s.halt.mem = s.mem := rfl
@[simp] theorem State.halt_status (s : State) : s.halt.status = .halted := rfl
@[simp] theorem State.halt_freeCount (s : State) : s.halt.freeCount = s.freeCount := rfl

@[simp] theorem State.write_a (s : State) (ea : Addr) (v : Byte) : (s.write ea v).a = s.a := rfl
@[simp] theorem State.write_x (s : State) (ea : Addr) (v : Byte) : (s.write ea v).x = s.x := rfl
@[simp] theorem State.write_y (s : State) (ea : Addr) (v : Byte) : (s.write ea v).y = s.y := rfl
@[simp] theorem State.write_p (s : State) (ea : Addr) (v : Byte) : (s.write ea v).p = s.p := rfl
@[simp] theorem State.write_sp (s : State) (ea : Addr) (v : Byte) : (s.write ea v).sp = s.sp := rfl
@[simp] theorem State.write_pc (s : State) (ea : Addr) (v : Byte) : (s.write ea v).pc = s.pc := rfl
@[simp] theorem State.write_mem (s : State) (ea : Addr) (v : Byte) : (s.write ea v).mem = s.mem.write ea v := rfl
@[simp] theorem State.write_status (s : State) (ea : Addr) (v : Byte) : (s.write ea v).status = s.status := rfl
@[simp] theorem State.write_freeCount (s : State) (ea : Addr) (v : Byte) : (s.write ea v).freeCount = s.freeCount := rfl

@[simp] theorem State.takeFault_a (r : FaultRecord) (s : State) : (s.takeFault r).a = s.a := rfl
@[simp] theorem State.takeFault_x (r : FaultRecord) (s : State) : (s.takeFault r).x = s.x := rfl
@[simp] theorem State.takeFault_y (r : FaultRecord) (s : State) : (s.takeFault r).y = s.y := rfl
@[simp] theorem State.takeFault_p (r : FaultRecord) (s : State) : (s.takeFault r).p = s.p := rfl
@[simp] theorem State.takeFault_sp (r : FaultRecord) (s : State) : (s.takeFault r).sp = s.sp := rfl
@[simp] theorem State.takeFault_pc (r : FaultRecord) (s : State) : (s.takeFault r).pc = Config.freePc s.freeCount := rfl
@[simp] theorem State.takeFault_mem (r : FaultRecord) (s : State) : (s.takeFault r).mem = s.mem := rfl
@[simp] theorem State.takeFault_status (r : FaultRecord) (s : State) : (s.takeFault r).status = .faulted r := rfl
@[simp] theorem State.takeFault_freeCount (r : FaultRecord) (s : State) : (s.takeFault r).freeCount = s.freeCount + 1 := rfl

/-- Two states that agree in every field are one state. -/
theorem State.ext_fields {s t : State} (ha : s.a = t.a) (hx : s.x = t.x) (hy : s.y = t.y) (hp : s.p = t.p)
    (hsp : s.sp = t.sp) (hpc : s.pc = t.pc) (hm : s.mem = t.mem) (hst : s.status = t.status)
    (hf : s.freeCount = t.freeCount) : s = t := by
  cases s; cases t; simp_all

@[simp] theorem State.setFreeCount_a (s : State) (n : Nat) : (s.setFreeCount n).a = s.a := rfl
@[simp] theorem State.setFreeCount_x (s : State) (n : Nat) : (s.setFreeCount n).x = s.x := rfl
@[simp] theorem State.setFreeCount_y (s : State) (n : Nat) : (s.setFreeCount n).y = s.y := rfl
@[simp] theorem State.setFreeCount_p (s : State) (n : Nat) : (s.setFreeCount n).p = s.p := rfl
@[simp] theorem State.setFreeCount_sp (s : State) (n : Nat) : (s.setFreeCount n).sp = s.sp := rfl
@[simp] theorem State.setFreeCount_pc (s : State) (n : Nat) : (s.setFreeCount n).pc = s.pc := rfl
@[simp] theorem State.setFreeCount_mem (s : State) (n : Nat) : (s.setFreeCount n).mem = s.mem := rfl
@[simp] theorem State.setFreeCount_status (s : State) (n : Nat) : (s.setFreeCount n).status = s.status := rfl
@[simp] theorem State.setFreeCount_freeCount (s : State) (n : Nat) : (s.setFreeCount n).freeCount = n := rfl

end Sys2Proof.Machine
end

