-- ==== Sys2Proof/Laws/Flags.lean ====
section
/-! SUPPORT. The laws of bits, flags and flag updates: a write to one flag changes that flag and nothing else
(spec/41_flags_alu.md R79, R80). -/

namespace Sys2Proof.Machine

/-- A byte with one bit set reads as that bit there and as before elsewhere. -/
theorem bitOf_withBit (v : Byte) {i j : Nat} (hi : i < 8) (hj : j < 8) (b : Bool) :
    bitOf (withBit v i b) j = if i = j then b else bitOf v j := by
  cases b <;> simp only [bitOf, withBit, Bool.false_eq_true, if_true, if_false, BitVec.getLsbD_or, BitVec.getLsbD_and,
    BitVec.getLsbD_not, BitVec.getLsbD_shiftLeft, BitVec.getLsbD_one] <;>
  (by_cases h : i = j
   · subst h; simp [hi]
   · have : (decide (j < i) = true) ∨ (j - i ≠ 0) := by
       by_cases hlt : j < i
       · exact .inl (by simp [hlt])
       · exact .inr (by omega)
     rcases this with h1 | h1 <;> simp [h, hj, h1])

theorem Flag.bit_lt (f : Flag) : f.bit < 8 := by cases f <;> decide

theorem Flag.bit_inj {f g : Flag} (h : f.bit = g.bit) : f = g := by cases f <;> cases g <;> simp_all [Flag.bit]

/-- `P.f <- b` then `P.g`. -/
theorem State.flag_setFlag (s : State) (f g : Flag) (b : Bool) :
    (s.setFlag f b).flag g = if f = g then b else s.flag g := by
  simp only [State.flag, State.setFlag, State.setP_p, bitOf_withBit _ f.bit_lt g.bit_lt]
  by_cases h : f = g
  · simp [h]
  · simp [h, show ¬ f.bit = g.bit from fun e => h (Flag.bit_inj e)]

/-- The reserved bits 4 and 5 of P. -/
theorem State.reserved_setFlag (s : State) (f : Flag) (b : Bool) :
    bitOf (s.setFlag f b).p 4 = bitOf s.p 4 ∧ bitOf (s.setFlag f b).p 5 = bitOf s.p 5 := by
  simp only [State.setFlag, State.setP_p, bitOf_withBit _ f.bit_lt (show 4 < 8 by decide),
    bitOf_withBit _ f.bit_lt (show 5 < 8 by decide)]
  cases f <;> simp [Flag.bit]

@[simp] theorem State.setFlag_a (s : State) (f : Flag) (b : Bool) : (s.setFlag f b).a = s.a := rfl
@[simp] theorem State.setFlag_x (s : State) (f : Flag) (b : Bool) : (s.setFlag f b).x = s.x := rfl
@[simp] theorem State.setFlag_y (s : State) (f : Flag) (b : Bool) : (s.setFlag f b).y = s.y := rfl
@[simp] theorem State.setFlag_sp (s : State) (f : Flag) (b : Bool) : (s.setFlag f b).sp = s.sp := rfl
@[simp] theorem State.setFlag_pc (s : State) (f : Flag) (b : Bool) : (s.setFlag f b).pc = s.pc := rfl
@[simp] theorem State.setFlag_mem (s : State) (f : Flag) (b : Bool) : (s.setFlag f b).mem = s.mem := rfl
@[simp] theorem State.setFlag_status (s : State) (f : Flag) (b : Bool) : (s.setFlag f b).status = s.status := rfl
@[simp] theorem State.setFlag_freeCount (s : State) (f : Flag) (b : Bool) : (s.setFlag f b).freeCount = s.freeCount := rfl

@[simp] theorem State.updateZN_a (s : State) (r : Byte) : (s.updateZN r).a = s.a := rfl
@[simp] theorem State.updateZN_x (s : State) (r : Byte) : (s.updateZN r).x = s.x := rfl
@[simp] theorem State.updateZN_y (s : State) (r : Byte) : (s.updateZN r).y = s.y := rfl
@[simp] theorem State.updateZN_sp (s : State) (r : Byte) : (s.updateZN r).sp = s.sp := rfl
@[simp] theorem State.updateZN_pc (s : State) (r : Byte) : (s.updateZN r).pc = s.pc := rfl
@[simp] theorem State.updateZN_mem (s : State) (r : Byte) : (s.updateZN r).mem = s.mem := rfl
@[simp] theorem State.updateZN_status (s : State) (r : Byte) : (s.updateZN r).status = s.status := rfl
@[simp] theorem State.updateZN_freeCount (s : State) (r : Byte) : (s.updateZN r).freeCount = s.freeCount := rfl

/-- What `update_zero_and_negative(r)` leaves in each flag (R80). -/
theorem State.flag_updateZN (s : State) (r : Byte) (g : Flag) :
    (s.updateZN r).flag g = if g = .Z then r == 0x00 else if g = .N then bitOf r 7 else s.flag g := by
  simp only [State.updateZN, State.flag_setFlag]
  cases g <;> simp

theorem State.reserved_updateZN (s : State) (r : Byte) :
    bitOf (s.updateZN r).p 4 = bitOf s.p 4 ∧ bitOf (s.updateZN r).p 5 = bitOf s.p 5 := by
  simp only [State.updateZN]
  exact ⟨(State.reserved_setFlag _ _ _).1.trans (State.reserved_setFlag _ _ _).1,
    (State.reserved_setFlag _ _ _).2.trans (State.reserved_setFlag _ _ _).2⟩

/-- A flag depends on P alone. -/
theorem State.flag_congr {s t : State} (h : s.p = t.p) (f : Flag) : s.flag f = t.flag f := by
  simp [State.flag, h]

@[simp] theorem State.flag_setA (s : State) (v : Byte) (f : Flag) : (s.setA v).flag f = s.flag f := rfl
@[simp] theorem State.flag_setX (s : State) (v : Byte) (f : Flag) : (s.setX v).flag f = s.flag f := rfl
@[simp] theorem State.flag_setY (s : State) (v : Byte) (f : Flag) : (s.setY v).flag f = s.flag f := rfl
@[simp] theorem State.flag_setPc (s : State) (v : Addr) (f : Flag) : (s.setPc v).flag f = s.flag f := rfl
@[simp] theorem State.flag_write (s : State) (ea : Addr) (v : Byte) (f : Flag) : (s.write ea v).flag f = s.flag f := rfl
@[simp] theorem State.flag_atOperand (s : State) (f : Flag) : s.atOperand.flag f = s.flag f := rfl
@[simp] theorem State.flag_setStatus (s : State) (v : Status) (f : Flag) : (s.setStatus v).flag f = s.flag f := rfl
@[simp] theorem State.flag_halt (s : State) (f : Flag) : s.halt.flag f = s.flag f := rfl

/-- The carry out of the adder is the overflow of the unsigned sum, and its result the sum modulo 2^8 (R85). -/
theorem add8_nat (a b : Byte) (cin : Bool) :
    (add8 a b cin).r.toNat = (a.toNat + b.toNat + cin.toNat) % 256 ∧
    (add8 a b cin).cout = decide (256 ≤ a.toNat + b.toNat + cin.toNat) := by
  simp [add8]

/-- Bit 7 of a byte is whether it is at least 128. -/
theorem bitOf_seven (x : Byte) : bitOf x 7 = decide (128 ≤ x.toNat) := by
  have := BitVec.msb_eq_decide x
  simp only [BitVec.msb_eq_getLsbD_last] at this
  simpa [bitOf] using this

/-- The two's-complement value of a byte, by cases on its sign (00_scope.md R11). -/
theorem signed8_eq (x : Byte) : signed8 x = (x.toNat : Int) - (if 128 ≤ x.toNat then 256 else 0) := by
  simp only [signed8, BitVec.toInt_eq_toNat_cond]
  by_cases h : 128 ≤ x.toNat
  · rw [if_neg (by omega), if_pos h]
    rfl
  · rw [if_pos (by omega), if_neg h]
    omega

/-- The adder's overflow bit, by the signs: the operands agree and the result does not (R85). -/
theorem add8_v (a b : Byte) (cin : Bool) :
    (add8 a b cin).v = ((bitOf a 7 == bitOf b 7) && (bitOf (add8 a b cin).r 7 != bitOf a 7)) := by
  have sign : ∀ x : Byte, ((x &&& 0x80) != 0) = bitOf x 7 := by decide +kernel
  have key : ∀ r : Byte, (((r ^^^ a) &&& (r ^^^ b) &&& 0x80) != 0) =
      ((bitOf a 7 == bitOf b 7) && (bitOf r 7 != bitOf a 7)) := by
    intro r
    rw [sign]
    simp only [bitOf, BitVec.getLsbD_and, BitVec.getLsbD_xor]
    cases a.getLsbD 7 <;> cases b.getLsbD 7 <;> cases r.getLsbD 7 <;> rfl
  exact key _

end Sys2Proof.Machine
end

