-- ==== Sys2Proof/Laws/Memory.lean ====
section
/-! SUPPORT. The laws of memory: a read sees the last write to its byte, and every operation keeps the canonical form
(spec/20_memory.md R28 to R32). -/

namespace Sys2Proof.Machine

@[simp] theorem Memory.cellAt_zeroed (n : Nat) : Memory.cellAt Memory.zeroed n = Memory.blank := rfl

@[simp] theorem Memory.read_zeroed (a : Addr) : Memory.read Memory.zeroed a = 0 := rfl

/-- An address below every listed one reads as blank. -/
theorem Memory.cellAt_of_lt (m : Memory) (n : Nat) (h : ∀ c ∈ m, n < c.1) : m.cellAt n = Memory.blank := by
  induction m with
  | nil => rfl
  | cons c m ih =>
    obtain ⟨k, w⟩ := c
    have hk : n < k := h (k, w) (by simp)
    simp only [Memory.cellAt, show ¬ k = n by omega, if_false]
    exact ih fun c hc => h c (by simp [hc])

theorem Memory.setCell_addrs (m : Memory) (a : Nat) (v : Byte) :
    ∀ c ∈ m.setCell a v, c ∈ m ∨ (c = (a, v) ∧ v ≠ Memory.blank) := by
  induction m with
  | nil =>
    intro c hc
    simp only [Memory.setCell] at hc
    split at hc <;> simp_all
  | cons e m ih =>
    obtain ⟨k, w⟩ := e
    intro c hc
    simp only [Memory.setCell] at hc
    split at hc
    · split at hc <;> simp_all
      rcases hc with hc | hc | hc <;> simp_all
    · split at hc
      · split at hc <;> simp_all
        rcases hc with hc | hc <;> simp_all
      · rcases List.mem_cons.mp hc with rfl | hc
        · simp
        · rcases ih c hc with h | h
          · exact .inl (by simp [h])
          · exact .inr h

theorem Memory.setCell_wf {m : Memory} (h : m.wf) {a : Nat} (ha : a < 0x10000) (v : Byte) : (m.setCell a v).wf := by
  refine ⟨?_, ?_⟩
  · obtain ⟨hs, -⟩ := h
    induction m with
    | nil => simp only [Memory.setCell]; split <;> simp
    | cons e m ih =>
      obtain ⟨k, w⟩ := e
      obtain ⟨hk, hm⟩ := List.pairwise_cons.mp hs
      simp only [Memory.setCell]
      split
      · next hlt =>
        split
        · exact hs
        · refine List.pairwise_cons.mpr ⟨?_, hs⟩
          intro c hc
          rcases List.mem_cons.mp hc with rfl | hc
          · exact hlt
          · exact Nat.lt_trans hlt (hk c hc)
      · split
        · next he =>
          split
          · exact hm
          · exact List.pairwise_cons.mpr ⟨fun c hc => by have := hk c hc; subst he; exact this, hm⟩
        · next hge hne =>
          refine List.pairwise_cons.mpr ⟨?_, ih hm⟩
          intro c hc
          rcases Memory.setCell_addrs m a v c hc with h | ⟨rfl, -⟩
          · exact hk c h
          · show k < a
            omega
  · intro c hc
    rcases Memory.setCell_addrs m a v c hc with h' | ⟨rfl, hv⟩
    · exact h.2 c h'
    · exact ⟨ha, hv⟩

theorem Memory.cellAt_setCell {m : Memory} (h : m.wf) (a b : Nat) (v : Byte) :
    (m.setCell a v).cellAt b = if a = b then v else m.cellAt b := by
  obtain ⟨hs, -⟩ := h
  induction m with
  | nil =>
    simp only [Memory.setCell]
    by_cases hv : v = Memory.blank <;> by_cases hab : a = b <;> simp [hv, hab, Memory.cellAt]
  | cons e m ih =>
    obtain ⟨k, w⟩ := e
    obtain ⟨hk, hm⟩ := List.pairwise_cons.mp hs
    have below : a ≤ k → ∀ n, n ≤ a → n ≠ k → Memory.cellAt m n = Memory.blank := fun hak n hn hne =>
      Memory.cellAt_of_lt m n fun c hc => by have := hk c hc; simp at this; omega
    simp only [Memory.setCell]
    split
    · next hlt =>
      split
      · next hv =>
        by_cases hab : a = b
        · subst hab
          simp [Memory.cellAt, show ¬ k = a by omega, hv, below (by omega) a (by omega) (by omega)]
        · simp [hab]
      · by_cases hab : a = b <;> simp [hab, Memory.cellAt]
    · split
      · next he =>
        subst he
        split
        · next hv =>
          by_cases hab : a = b
          · subst hab
            simp [hv]
            exact Memory.cellAt_of_lt m a fun c hc => by simpa using hk c hc
          · simp [hab, Memory.cellAt]
        · by_cases hab : a = b <;> simp [hab, Memory.cellAt]
      · next hge hne =>
        simp only [Memory.cellAt]
        by_cases hkb : k = b
        · subst hkb
          simp [hne]
        · simp only [hkb, if_false, ih hm]

/-- A write keeps the canonical form. -/
theorem Memory.write_wf {m : Memory} (h : m.wf) (a : Addr) (v : Byte) : (m.write a v).wf :=
  Memory.setCell_wf h a.isLt v

theorem Memory.writeWord_wf {m : Memory} (h : m.wf) (a v : Addr) : (m.writeWord a v).wf :=
  Memory.write_wf (Memory.write_wf h _ _) _ _

theorem Memory.writeBytes_wf {m : Memory} (h : m.wf) (a : Addr) (bs : List Byte) : (m.writeBytes a bs).wf := by
  induction bs generalizing m a with
  | nil => exact h
  | cons b bs ih => exact ih (Memory.write_wf h a b) (a + 1)

theorem Memory.zeroed_wf : Memory.zeroed.wf := by decide

/-- A read sees the byte a write put there, and every other byte as it was. -/
theorem Memory.read_write {m : Memory} (h : m.wf) (a b : Addr) (v : Byte) :
    (m.write a v).read b = if a = b then v else m.read b := by
  simp only [Memory.read, Memory.write, Memory.cellAt_setCell h]
  by_cases hab : a = b
  · simp [hab]
  · simp [hab, BitVec.toNat_inj]

@[simp] theorem Memory.read_write_same {m : Memory} (h : m.wf) (a : Addr) (v : Byte) : (m.write a v).read a = v := by
  simp [Memory.read_write h]

theorem Memory.read_write_other {m : Memory} (h : m.wf) {a b : Addr} (hab : a ≠ b) (v : Byte) :
    (m.write a v).read b = m.read b := by
  simp [Memory.read_write h, hab]

/-- The bytes a list leaves, written without wrapping: each at its own address, and every other byte as it was. -/
theorem Memory.read_writeBytes {m : Memory} (hw : m.wf) (a : Addr) (bs : List Byte) (hl : a.toNat + bs.length ≤ 65536) :
    (∀ (k : Nat) (h : k < bs.length), (m.writeBytes a bs).read (a + BitVec.ofNat 16 k) = bs[k]) ∧
    (∀ b : Addr, (b.toNat < a.toNat ∨ a.toNat + bs.length ≤ b.toNat) → (m.writeBytes a bs).read b = m.read b) := by
  induction bs generalizing m a with
  | nil => simp [Memory.writeBytes]
  | cons v bs ih =>
    simp only [List.length_cons] at hl
    by_cases hn : bs = []
    · subst hn
      refine ⟨fun k h => ?_, fun b hb => ?_⟩
      · obtain rfl : k = 0 := by simpa using h
        simp [Memory.writeBytes, Memory.read_write hw]
      · simp only [Memory.writeBytes, Memory.read_write hw]
        rw [if_neg]
        rintro rfl
        simp at hb
    · have hpos : 0 < bs.length := List.length_pos_of_ne_nil hn
      have ha : (a + 1).toNat = a.toNat + 1 := by
        rw [BitVec.toNat_add]
        simp
        omega
      obtain ⟨h1, h2⟩ := ih (Memory.write_wf hw a v) (a + 1) (by omega)
      refine ⟨fun k h => ?_, fun b hb => ?_⟩
      · cases k with
        | zero =>
          simp only [Memory.writeBytes]
          rw [h2 _ (by left; simp; omega)]
          simp [Memory.read_write hw]
        | succ k =>
          simp only [Memory.writeBytes, List.getElem_cons_succ]
          rw [← h1 k (by simpa using h), BitVec.add_assoc]
          congr 2
          apply BitVec.eq_of_toNat_eq
          simp
          omega
      · simp only [List.length_cons] at hb
        simp only [Memory.writeBytes]
        rw [h2 b (by omega), Memory.read_write hw, if_neg]
        rintro rfl
        omega

end Sys2Proof.Machine
end

