-- ==== Sys2Proof/Laws/Exec.lean ====
section
/-! SUPPORT. What the shared operations of execution can do, said once: the operand helpers, running a handler, every
instruction as its mnemonic's handler, and a step. -/

namespace Sys2Proof.Machine

/-- Every mode but Implicit and Accumulator has an address (spec/40_addressing.md R58). -/
theorem resolve_some {o : Operand} (h1 : o.mode ≠ .implicit) (h2 : o.mode ≠ .accumulator) (s : State) :
    ∃ ea, resolve o s = some ea := by
  cases o <;> simp_all [resolve, Operand.mode]

/-- Every mode but Implicit has an operand byte. -/
theorem operandByte_some {o : Operand} (h : o.mode ≠ .implicit) (s : State) : ∃ m, operandByte o s = some m := by
  cases o <;> simp_all [operandByte, resolve, Operand.mode]

theorem withEA_some {site : FetchSite} {o : Operand} {s : State} {k : Addr → Result} {ea : Addr}
    (h : resolve o s = some ea) : withEA site o s k = k ea := by simp [withEA, h]

theorem withOperand_some {site : FetchSite} {o : Operand} {s : State} {k : Byte → Result} {m : Byte}
    (h : operandByte o s = some m) : withOperand site o s k = k m := by simp [withOperand, h]

/-- If a memory-operand handler answers a next state, the mode had an address and the rest made it. -/
theorem withEA_next {site : FetchSite} {o : Operand} {s t : State} {k : Addr → Result} (h : withEA site o s k = .next t) :
    ∃ ea, resolve o s = some ea ∧ k ea = .next t := by
  unfold withEA at h
  split at h
  · exact ⟨_, ‹_›, h⟩
  · simp [raise] at h

theorem withOperand_next {site : FetchSite} {o : Operand} {s t : State} {k : Byte → Result}
    (h : withOperand site o s k = .next t) : ∃ m, operandByte o s = some m ∧ k m = .next t := by
  unfold withOperand at h
  split at h
  · exact ⟨_, ‹_›, h⟩
  · simp [raise] at h

theorem runHandler_of_next {opcode : Byte} {n : Nat} {f : FetchSite → State → Result} {s t : State}
    (h : f ⟨opcode, s.pc⟩ s.atOperand = .next t) :
    runHandler opcode n f s = .next (t.setPc (t.pc + BitVec.ofNat 16 (n - 1))) := by simp [runHandler, h]

/-- If running a handler answers a next state, the handler did, and PC was advanced after it. -/
theorem runHandler_next {opcode : Byte} {n : Nat} {f : FetchSite → State → Result} {s u : State}
    (h : runHandler opcode n f s = .next u) :
    ∃ t, f ⟨opcode, s.pc⟩ s.atOperand = .next t ∧ u = t.setPc (t.pc + BitVec.ofNat 16 (n - 1)) := by
  unfold runHandler at h
  split at h
  · next t ht => exact ⟨t, ht, by simpa using h.symm⟩
  · simp at h
  · simp at h

/-- Every instruction but BRK runs its mnemonic's handler on its operand, with its opcode and length
(spec/42_execution_loop.md R93, R94). -/
theorem exec_eq_execute {i : Instr} (h : i.mnemonic ≠ .BRK) (s : State) :
    exec i s = runHandler i.opcode i.length (fun site => execute i.mnemonic site i.operand) s := by
  cases i <;> first | rfl | exact absurd rfl h

theorem eq_brk {i : Instr} (h : i.mnemonic = .BRK) : i = .brk := by cases i <;> first | rfl | simp [Instr.mnemonic] at h

/-- A step in each status (spec/42_execution_loop.md R91, R92; logs 1, 2, 3). -/
theorem step_cases (s : State) :
    (s.status = .running ∧ step s = fetchAndRun exec s) ∨
    (s.status = .ready ∧ step s = fetchAndRun exec (s.setStatus .running)) ∨
    (s.status = .halted ∧ step s = .next s) ∨
    (∃ r, s.status = .faulted r ∧ step s = .refused (.runFromFaulted r)) := by
  cases h : s.status <;> simp [step, stepWith, h]

/-- A fetch runs the decoded instruction or raises UnrecognizedOpcode. -/
theorem fetchAndRun_cases (run : Instr → State → Result) (s : State) :
    (∃ i rest, decode s.instrBytes = .ok (i, rest) ∧ fetchAndRun run s = run i s) ∨
    fetchAndRun run s = raise (.unrecognizedOpcode (s.read s.pc) s.pc) s := by
  unfold fetchAndRun
  split
  · next i rest h => exact .inl ⟨i, rest, h, rfl⟩
  · exact .inr rfl

/-- The operand byte and the address depend on A, X, Y, PC and memory alone (spec/40_addressing.md R58). -/
theorem operand_congr {s u : State} (o : Operand) (ha : u.a = s.a) (hx : u.x = s.x) (hy : u.y = s.y) (hp : u.pc = s.pc)
    (hm : u.mem = s.mem) : operandByte o u = operandByte o s ∧ resolve o u = resolve o s := by
  cases o <;> simp [operandByte, resolve, State.zpWord, State.read, ha, hx, hy, hp, hm]

/-- The instruction bytes at PC decode as the three bytes at PC do: to no row, or to the row's instruction with its operand at
PC (spec/30_encoding.md R44, R54). -/
theorem fetch_cases (s : State) :
    (romLookup opcodeRom (s.read s.pc) = none ∧ decode s.instrBytes = .error (.unrecognizedOpcode (s.read s.pc))) ∨
    ∃ d i, romLookup opcodeRom (s.read s.pc) = some d ∧
      Instr.ofForm d.mnemonic (fetchOperand d.mode s.atOperand) = some i ∧ decode s.instrBytes = .ok (i, []) := by
  cases hd : romLookup opcodeRom (s.read s.pc) with
  | none => exact .inl ⟨rfl, by simp [State.instrBytes, hd, decode, decodeWith]⟩
  | some d =>
    obtain ⟨i, hi, -⟩ := rom_row_form hd (s.read (s.pc + 1)) (s.read (s.pc + 2))
    have ho : fetchOperand d.mode s.atOperand = d.mode.operandOf (s.read (s.pc + 1)) (s.read (s.pc + 2)) := by
      simp [fetchOperand, State.read, BitVec.add_assoc]
    refine .inr ⟨d, i, rfl, by rw [ho, hi], ?_⟩
    have hb : s.instrBytes = s.read s.pc :: ([s.read (s.pc + 1), s.read (s.pc + 2)].take d.mode.operandBytes) := by
      simp only [State.instrBytes, hd, (rom_row (romLookup_some hd).1).2]
      cases d.mode <;> simp [AddrMode.length, AddrMode.operandBytes, List.range, List.range.loop]
    rw [hb]
    generalize s.read (s.pc + 1) = b1 at hi ⊢
    generalize s.read (s.pc + 2) = b2 at hi ⊢
    cases hm : d.mode <;> rw [hm] at hi <;> simp only [AddrMode.operandOf] at hi <;>
      simp [decode, decodeWith, hd, hm, takeOperand, AddrMode.operandBytes, AddrMode.operandOf, hi]

/-- A fault that raising makes: its record, and the state it leaves. -/
theorem raise_fault {r : FaultRecord} {s : State} {f : Fault} (h : raise r s = .fault f) :
    f.record = r ∧ f.left = s.takeFault r := by
  cases r <;> cases h <;> exact ⟨rfl, rfl⟩

end Sys2Proof.Machine
end

