-- ==== Sys2Proof/Laws/Handlers.lean ====
section
/-! SUPPORT. What each mnemonic's handler answers: the next state, once its operand byte or its effective address is known. No
handler answers anything else but UnsupportedAddressingMode, where there is none. -/

namespace Sys2Proof.Machine

variable {site : FetchSite} {o : Operand} {s : State}

/-! ## Handlers that read an operand byte -/

theorem lda_next {m : Byte} (h : operandByte o s = some m) : execute .LDA site o s = .next ((s.setA m).updateZN m) :=
  withOperand_some h
theorem ldx_next {m : Byte} (h : operandByte o s = some m) : execute .LDX site o s = .next ((s.setX m).updateZN m) :=
  withOperand_some h
theorem ldy_next {m : Byte} (h : operandByte o s = some m) : execute .LDY site o s = .next ((s.setY m).updateZN m) :=
  withOperand_some h
theorem adc_next {m : Byte} (h : operandByte o s = some m) :
    execute .ADC site o s = .next (s.addInto (add8 s.a m (s.flag .C))) := withOperand_some h
theorem sbc_next {m : Byte} (h : operandByte o s = some m) :
    execute .SBC site o s = .next (s.addInto (add8 s.a (~~~m) (s.flag .C))) := withOperand_some h
theorem and_next {m : Byte} (h : operandByte o s = some m) :
    execute .AND site o s = .next ((s.setA (and8 s.a m)).updateZN (and8 s.a m)) := withOperand_some h
theorem ora_next {m : Byte} (h : operandByte o s = some m) :
    execute .ORA site o s = .next ((s.setA (or8 s.a m)).updateZN (or8 s.a m)) := withOperand_some h
theorem eor_next {m : Byte} (h : operandByte o s = some m) :
    execute .EOR site o s = .next ((s.setA (xor8 s.a m)).updateZN (xor8 s.a m)) := withOperand_some h

/-! ## Handlers that use an effective address -/

theorem sta_next {ea : Addr} (h : resolve o s = some ea) : execute .STA site o s = .next (s.write ea s.a) := withEA_some h
theorem stx_next {ea : Addr} (h : resolve o s = some ea) : execute .STX site o s = .next (s.write ea s.x) := withEA_some h
theorem sty_next {ea : Addr} (h : resolve o s = some ea) : execute .STY site o s = .next (s.write ea s.y) := withEA_some h
theorem inc_next {ea : Addr} (h : resolve o s = some ea) :
    execute .INC site o s = .next ((s.write ea (inc8 (s.read ea))).updateZN (inc8 (s.read ea))) := withEA_some h
theorem dec_next {ea : Addr} (h : resolve o s = some ea) :
    execute .DEC site o s = .next ((s.write ea (dec8 (s.read ea))).updateZN (dec8 (s.read ea))) := withEA_some h

/-! ## Shifts and rotates -/

/-- What a shift makes of A. -/
def shiftedA (f : Byte → Bool → Byte × Bool) (s : State) : State :=
  let out := f s.a (s.flag .C)
  ((s.setA out.1).setFlag .C out.2).updateZN out.1

/-- What a shift makes of a byte of memory. -/
def shiftedMem (f : Byte → Bool → Byte × Bool) (ea : Addr) (s : State) : State :=
  let out := f (s.read ea) (s.flag .C)
  ((s.write ea out.1).setFlag .C out.2).updateZN out.1

theorem shiftForm_acc {f : Byte → Bool → Byte × Bool} (h : o.mode = .accumulator) :
    shiftForm f site o s = .next (shiftedA f s) := by simp [shiftForm, h, shiftedA]

theorem shiftForm_mem {f : Byte → Bool → Byte × Bool} {ea : Addr} (h : resolve o s = some ea) :
    shiftForm f site o s = .next (shiftedMem f ea s) := by
  have hm : o.mode ≠ .accumulator := by cases o <;> simp_all [resolve, Operand.mode]
  simp [shiftForm, hm, withEA_some h, shiftedMem]

@[simp] theorem shiftedA_x (f : Byte → Bool → Byte × Bool) (s : State) : (shiftedA f s).x = s.x := rfl
@[simp] theorem shiftedA_y (f : Byte → Bool → Byte × Bool) (s : State) : (shiftedA f s).y = s.y := rfl
@[simp] theorem shiftedA_sp (f : Byte → Bool → Byte × Bool) (s : State) : (shiftedA f s).sp = s.sp := rfl
@[simp] theorem shiftedA_pc (f : Byte → Bool → Byte × Bool) (s : State) : (shiftedA f s).pc = s.pc := rfl
@[simp] theorem shiftedA_mem (f : Byte → Bool → Byte × Bool) (s : State) : (shiftedA f s).mem = s.mem := rfl
@[simp] theorem shiftedA_status (f : Byte → Bool → Byte × Bool) (s : State) : (shiftedA f s).status = s.status := rfl
@[simp] theorem shiftedA_freeCount (f : Byte → Bool → Byte × Bool) (s : State) : (shiftedA f s).freeCount = s.freeCount := rfl
@[simp] theorem shiftedA_a (f : Byte → Bool → Byte × Bool) (s : State) : (shiftedA f s).a = (f s.a (s.flag .C)).1 := rfl
@[simp] theorem shiftedMem_a (f : Byte → Bool → Byte × Bool) (ea : Addr) (s : State) :
    (shiftedMem f ea s).a = s.a := rfl
@[simp] theorem shiftedMem_x (f : Byte → Bool → Byte × Bool) (ea : Addr) (s : State) :
    (shiftedMem f ea s).x = s.x := rfl
@[simp] theorem shiftedMem_y (f : Byte → Bool → Byte × Bool) (ea : Addr) (s : State) :
    (shiftedMem f ea s).y = s.y := rfl
@[simp] theorem shiftedMem_sp (f : Byte → Bool → Byte × Bool) (ea : Addr) (s : State) :
    (shiftedMem f ea s).sp = s.sp := rfl
@[simp] theorem shiftedMem_pc (f : Byte → Bool → Byte × Bool) (ea : Addr) (s : State) :
    (shiftedMem f ea s).pc = s.pc := rfl
@[simp] theorem shiftedMem_status (f : Byte → Bool → Byte × Bool) (ea : Addr) (s : State) :
    (shiftedMem f ea s).status = s.status := rfl
@[simp] theorem shiftedMem_freeCount (f : Byte → Bool → Byte × Bool) (ea : Addr) (s : State) :
    (shiftedMem f ea s).freeCount = s.freeCount := rfl
@[simp] theorem shiftedMem_mem (f : Byte → Bool → Byte × Bool) (ea : Addr) (s : State) :
    (shiftedMem f ea s).mem = s.mem.write ea (f (s.read ea) (s.flag .C)).1 := rfl

/-- The flags after a shift of A. -/
theorem flag_shiftedA (f : Byte → Bool → Byte × Bool) (s : State) (g : Flag) :
    (shiftedA f s).flag g = if g = .Z then (f s.a (s.flag .C)).1 == 0x00 else if g = .N then bitOf (f s.a (s.flag .C)).1 7
      else if g = .C then (f s.a (s.flag .C)).2 else s.flag g := by
  simp only [shiftedA, State.flag_updateZN, State.flag_setFlag, State.flag_setA]
  cases g <;> simp

/-- The flags after a shift of a byte of memory. -/
theorem flag_shiftedMem (f : Byte → Bool → Byte × Bool) (ea : Addr) (s : State) (g : Flag) :
    (shiftedMem f ea s).flag g = if g = .Z then (f (s.read ea) (s.flag .C)).1 == 0x00
      else if g = .N then bitOf (f (s.read ea) (s.flag .C)).1 7
      else if g = .C then (f (s.read ea) (s.flag .C)).2 else s.flag g := by
  simp only [shiftedMem, State.flag_updateZN, State.flag_setFlag, State.flag_write]
  cases g <;> simp

theorem reserved_shiftedA (f : Byte → Bool → Byte × Bool) (s : State) :
    bitOf (shiftedA f s).p 4 = bitOf s.p 4 ∧ bitOf (shiftedA f s).p 5 = bitOf s.p 5 := by
  simp only [shiftedA]
  exact ⟨(State.reserved_updateZN _ _).1.trans (State.reserved_setFlag _ _ _).1,
    (State.reserved_updateZN _ _).2.trans (State.reserved_setFlag _ _ _).2⟩

theorem reserved_shiftedMem (f : Byte → Bool → Byte × Bool) (ea : Addr) (s : State) :
    bitOf (shiftedMem f ea s).p 4 = bitOf s.p 4 ∧ bitOf (shiftedMem f ea s).p 5 = bitOf s.p 5 := by
  simp only [shiftedMem]
  exact ⟨(State.reserved_updateZN _ _).1.trans (State.reserved_setFlag _ _ _).1,
    (State.reserved_updateZN _ _).2.trans (State.reserved_setFlag _ _ _).2⟩

/-! ## The adder's outputs -/

@[simp] theorem State.addInto_x (s : State) (r : AddResult) : (s.addInto r).x = s.x := rfl
@[simp] theorem State.addInto_y (s : State) (r : AddResult) : (s.addInto r).y = s.y := rfl
@[simp] theorem State.addInto_sp (s : State) (r : AddResult) : (s.addInto r).sp = s.sp := rfl
@[simp] theorem State.addInto_pc (s : State) (r : AddResult) : (s.addInto r).pc = s.pc := rfl
@[simp] theorem State.addInto_mem (s : State) (r : AddResult) : (s.addInto r).mem = s.mem := rfl
@[simp] theorem State.addInto_status (s : State) (r : AddResult) : (s.addInto r).status = s.status := rfl
@[simp] theorem State.addInto_freeCount (s : State) (r : AddResult) : (s.addInto r).freeCount = s.freeCount := rfl
@[simp] theorem State.addInto_a (s : State) (r : AddResult) : (s.addInto r).a = r.r := rfl

/-- The flags after ADC or SBC. -/
theorem State.flag_addInto (s : State) (r : AddResult) (g : Flag) :
    (s.addInto r).flag g = if g = .Z then r.r == 0x00 else if g = .N then bitOf r.r 7 else if g = .V then r.v
      else if g = .C then r.cout else s.flag g := by
  simp only [State.addInto, State.flag_updateZN, State.flag_setFlag, State.flag_setA]
  cases g <;> simp

theorem State.reserved_addInto (s : State) (r : AddResult) :
    bitOf (s.addInto r).p 4 = bitOf s.p 4 ∧ bitOf (s.addInto r).p 5 = bitOf s.p 5 := by
  simp only [State.addInto]
  have h1 := State.reserved_setFlag (s.setA r.r) .C r.cout
  have h2 := State.reserved_setFlag ((s.setA r.r).setFlag .C r.cout) .V r.v
  have h3 := State.reserved_updateZN (((s.setA r.r).setFlag .C r.cout).setFlag .V r.v) r.r
  exact ⟨h3.1.trans (h2.1.trans h1.1), h3.2.trans (h2.2.trans h1.2)⟩

/-- The shifter function of a mnemonic. -/
def shifterOf : Mnemonic → Byte → Bool → Byte × Bool
  | .LSR => lsr8
  | .ROL => rol8
  | .ROR => ror8
  | _ => asl8

theorem execute_shift {m : Mnemonic} (h : m ∈ [.ASL, .LSR, .ROL, .ROR]) (site : FetchSite) (o : Operand) (s : State) :
    execute m site o s = shiftForm (shifterOf m) site o s := by
  simp only [List.mem_cons, List.not_mem_nil, or_false] at h
  rcases h with rfl | rfl | rfl | rfl <;> rfl

/-- The one fault of a handler is UnsupportedAddressingMode, raised before it writes anything (spec/60_exceptions.md R131,
R133). -/
theorem execute_fault {m : Mnemonic} {f : Fault} (h : execute m site o s = .fault f) :
    raise (.unsupportedAddressingMode site.opcode site.pc0 o.mode) s = .fault f := by
  have ea {k : Addr → Result} (hk : ∀ a, ∃ t, k a = .next t) (h : withEA site o s k = .fault f) :
      raise (.unsupportedAddressingMode site.opcode site.pc0 o.mode) s = .fault f := by
    unfold withEA at h
    split at h
    · next a _ => obtain ⟨t, ht⟩ := hk a; rw [ht] at h; cases h
    · exact h
  have op {k : Byte → Result} (hk : ∀ a, ∃ t, k a = .next t) (h : withOperand site o s k = .fault f) :
      raise (.unsupportedAddressingMode site.opcode site.pc0 o.mode) s = .fault f := by
    unfold withOperand at h
    split at h
    · next a _ => obtain ⟨t, ht⟩ := hk a; rw [ht] at h; cases h
    · exact h
  have sh (g : Byte → Bool → Byte × Bool) (h : shiftForm g site o s = .fault f) :
      raise (.unsupportedAddressingMode site.opcode site.pc0 o.mode) s = .fault f := by
    unfold shiftForm at h
    split at h
    · cases h
    · exact ea (fun _ => ⟨_, rfl⟩) h
  cases m <;> first
    | exact sh _ h
    | exact ea (fun _ => ⟨_, rfl⟩) h
    | exact op (fun _ => ⟨_, rfl⟩) h
    | cases h

/-! ## From a handler to the instruction -/

/-- PC past the instruction: the handler's state with PC advanced over the operand bytes. -/
theorem exec_of_execute {i : Instr} {s t : State} (hb : i.mnemonic ≠ .BRK)
    (h : execute i.mnemonic ⟨i.opcode, s.pc⟩ i.operand s.atOperand = .next t) :
    exec i s = .next (t.setPc (t.pc + BitVec.ofNat 16 (i.length - 1))) := by
  rw [exec_eq_execute hb]
  exact runHandler_of_next (f := fun site => execute i.mnemonic site i.operand) h

/-- Every instruction has a mode its mnemonic has (spec/40_addressing.md R78). -/
theorem accepts_mode (i : Instr) : i.mnemonic.accepts i.mode = true := by cases i <;> rfl

/-- Implicit mode is the transfers', the register increments', the register decrements' and BRK's. -/
theorem mode_ne_implicit {i : Instr} (h : i.mnemonic ∉ [.TAX, .TXA, .TAY, .TYA, .INX, .DEX, .INY, .DEY, .BRK]) :
    i.operand.mode ≠ .implicit := by
  intro hm
  have ha := accepts_mode i
  rw [show i.mode = i.operand.mode from rfl, hm] at ha
  exact h (by simpa [Mnemonic.accepts, AddrMode.users] using ha)

/-- Accumulator mode is the shifts'. -/
theorem mode_ne_accumulator {i : Instr} (h : i.mnemonic ∉ [.ASL, .LSR, .ROL, .ROR]) : i.operand.mode ≠ .accumulator := by
  intro hm
  have ha := accepts_mode i
  rw [show i.mode = i.operand.mode from rfl, hm] at ha
  exact h (by simpa [Mnemonic.accepts, AddrMode.users] using ha)

end Sys2Proof.Machine
end

