-- ==== Sys2Proof/Laws/Inversion.lean ====
section
/-! SUPPORT. What an instruction can do, said once: every instruction answers a next state, and that state is one of nine
shapes. The rules over all instructions are read off it. -/

namespace Sys2Proof.Machine

/-- The state an instruction's handler makes, `q` being the state with PC at the operand: which registers, flags and bytes it
writes, for which mnemonics. -/
inductive Effect (i : Instr) (q : State) : State → Prop where
  | toA (v : Byte) (h : i.mnemonic ∈ [.LDA, .TXA, .TYA, .AND, .ORA, .EOR]) : Effect i q ((q.setA v).updateZN v)
  | toX (v : Byte) (h : i.mnemonic ∈ [.LDX, .TAX, .INX, .DEX]) : Effect i q ((q.setX v).updateZN v)
  | toY (v : Byte) (h : i.mnemonic ∈ [.LDY, .TAY, .INY, .DEY]) : Effect i q ((q.setY v).updateZN v)
  | sum (r : AddResult) (h : i.mnemonic ∈ [.ADC, .SBC]) : Effect i q (q.addInto r)
  | store (ea : Addr) (v : Byte) (h : i.mnemonic ∈ [.STA, .STX, .STY]) (he : resolve i.operand q = some ea) :
      Effect i q (q.write ea v)
  | modify (ea : Addr) (v : Byte) (h : i.mnemonic ∈ [.INC, .DEC]) (he : resolve i.operand q = some ea) :
      Effect i q ((q.write ea v).updateZN v)
  | shiftA (f : Byte → Bool → Byte × Bool) (h : i.mnemonic ∈ [.ASL, .LSR, .ROL, .ROR]) (hm : i.mode = .accumulator) :
      Effect i q (shiftedA f q)
  | shiftMem (f : Byte → Bool → Byte × Bool) (ea : Addr) (h : i.mnemonic ∈ [.ASL, .LSR, .ROL, .ROR])
      (hm : i.mode ≠ .accumulator) (he : resolve i.operand q = some ea) : Effect i q (shiftedMem f ea q)

/-- An instruction's handler answers a next state, and it is an effect of the instruction. -/
theorem execute_effect {i : Instr} (hb : i.mnemonic ≠ .BRK) (site : FetchSite) (q : State) :
    ∃ t, execute i.mnemonic site i.operand q = .next t ∧ Effect i q t := by
  have byte (h : i.mnemonic ∉ [.TAX, .TXA, .TAY, .TYA, .INX, .DEX, .INY, .DEY, .BRK]) :
      ∃ m, operandByte i.operand q = some m := operandByte_some (mode_ne_implicit h) q
  have addr (h : i.mnemonic ∉ [.TAX, .TXA, .TAY, .TYA, .INX, .DEX, .INY, .DEY, .BRK]) (ha : i.operand.mode ≠ .accumulator) :
      ∃ ea, resolve i.operand q = some ea := resolve_some (mode_ne_implicit h) ha q
  have shift (h : i.mnemonic ∈ [.ASL, .LSR, .ROL, .ROR])
      (h' : i.mnemonic ∉ [.TAX, .TXA, .TAY, .TYA, .INX, .DEX, .INY, .DEY, .BRK]) :
      ∃ t, execute i.mnemonic site i.operand q = .next t ∧ Effect i q t := by
    by_cases hm : i.operand.mode = .accumulator
    · exact ⟨_, (execute_shift h _ _ _).trans (shiftForm_acc hm), .shiftA _ h hm⟩
    · obtain ⟨ea, he⟩ := addr h' hm
      exact ⟨_, (execute_shift h _ _ _).trans (shiftForm_mem he), .shiftMem _ ea h hm he⟩
  cases hm : i.mnemonic <;> rw [hm] at byte addr shift
  case LDA => obtain ⟨m, h⟩ := byte (by decide); exact ⟨_, lda_next h, .toA m (by rw [hm]; decide)⟩
  case LDX => obtain ⟨m, h⟩ := byte (by decide); exact ⟨_, ldx_next h, .toX m (by rw [hm]; decide)⟩
  case LDY => obtain ⟨m, h⟩ := byte (by decide); exact ⟨_, ldy_next h, .toY m (by rw [hm]; decide)⟩
  case STA =>
    obtain ⟨ea, h⟩ := addr (by decide) (mode_ne_accumulator (by rw [hm]; decide))
    exact ⟨_, sta_next h, .store ea _ (by rw [hm]; decide) h⟩
  case STX =>
    obtain ⟨ea, h⟩ := addr (by decide) (mode_ne_accumulator (by rw [hm]; decide))
    exact ⟨_, stx_next h, .store ea _ (by rw [hm]; decide) h⟩
  case STY =>
    obtain ⟨ea, h⟩ := addr (by decide) (mode_ne_accumulator (by rw [hm]; decide))
    exact ⟨_, sty_next h, .store ea _ (by rw [hm]; decide) h⟩
  case TAX => exact ⟨_, rfl, .toX _ (by rw [hm]; decide)⟩
  case TXA => exact ⟨_, rfl, .toA _ (by rw [hm]; decide)⟩
  case TAY => exact ⟨_, rfl, .toY _ (by rw [hm]; decide)⟩
  case TYA => exact ⟨_, rfl, .toA _ (by rw [hm]; decide)⟩
  case ADC => obtain ⟨m, h⟩ := byte (by decide); exact ⟨_, adc_next h, .sum _ (by rw [hm]; decide)⟩
  case SBC => obtain ⟨m, h⟩ := byte (by decide); exact ⟨_, sbc_next h, .sum _ (by rw [hm]; decide)⟩
  case INC =>
    obtain ⟨ea, h⟩ := addr (by decide) (mode_ne_accumulator (by rw [hm]; decide))
    exact ⟨_, inc_next h, .modify ea _ (by rw [hm]; decide) h⟩
  case DEC =>
    obtain ⟨ea, h⟩ := addr (by decide) (mode_ne_accumulator (by rw [hm]; decide))
    exact ⟨_, dec_next h, .modify ea _ (by rw [hm]; decide) h⟩
  case INX => exact ⟨_, rfl, .toX _ (by rw [hm]; decide)⟩
  case DEX => exact ⟨_, rfl, .toX _ (by rw [hm]; decide)⟩
  case INY => exact ⟨_, rfl, .toY _ (by rw [hm]; decide)⟩
  case DEY => exact ⟨_, rfl, .toY _ (by rw [hm]; decide)⟩
  case ASL => exact shift (by decide) (by decide)
  case LSR => exact shift (by decide) (by decide)
  case ROL => exact shift (by decide) (by decide)
  case ROR => exact shift (by decide) (by decide)
  case AND => obtain ⟨m, h⟩ := byte (by decide); exact ⟨_, and_next h, .toA _ (by rw [hm]; decide)⟩
  case ORA => obtain ⟨m, h⟩ := byte (by decide); exact ⟨_, ora_next h, .toA _ (by rw [hm]; decide)⟩
  case EOR => obtain ⟨m, h⟩ := byte (by decide); exact ⟨_, eor_next h, .toA _ (by rw [hm]; decide)⟩
  case BRK => exact absurd hm hb

/-- An effect leaves SP, the run status and the free-value counter alone, and PC at the operand. -/
theorem Effect.rest {i : Instr} {q t : State} (h : Effect i q t) :
    t.sp = q.sp ∧ t.pc = q.pc ∧ t.status = q.status ∧ t.freeCount = q.freeCount := by
  cases h <;> simp

/-- PC after a handler and the loop's advance is the address of the next opcode. -/
theorem pc_after (s : State) (i : Instr) :
    s.pc + 1 + BitVec.ofNat 16 (i.length - 1) = s.pc + BitVec.ofNat 16 i.length := by
  rw [BitVec.add_assoc]
  congr 1
  simp only [Instr.length, AddrMode.length, Nat.add_sub_cancel_left]
  rw [show (1 : Addr) = BitVec.ofNat 16 1 from rfl, ← BitVec.ofNat_add]

/-- The inversion lemma of exec: BRK halts past its opcode, and every other instruction answers one of its effects with PC at
the next opcode (spec/42_execution_loop.md R93, R98). -/
theorem exec_cases (i : Instr) (s : State) :
    (i = .brk ∧ exec i s = .next s.atOperand.halt) ∨
    (i.mnemonic ≠ .BRK ∧ ∃ t, Effect i s.atOperand t ∧ exec i s = .next (t.setPc (s.pc + BitVec.ofNat 16 i.length))) := by
  by_cases hb : i.mnemonic = .BRK
  · have := eq_brk hb
    subst this
    exact .inl ⟨rfl, rfl⟩
  · obtain ⟨t, ht, he⟩ := execute_effect hb ⟨i.opcode, s.pc⟩ s.atOperand
    refine .inr ⟨hb, t, he, ?_⟩
    rw [exec_of_execute hb ht, he.rest.2.1, State.atOperand_pc, pc_after]

/-- The inversion lemma of step, when it answers a next state: a halted core idles, and a core in a run, or at its start, runs
the instruction whose opcode stands at PC (spec/42_execution_loop.md R91 to R93; logs 1, 2). -/
theorem step_next {s t : State} (h : step s = .next t) :
    (s.status = .halted ∧ t = s) ∨
    ((s.status = .running ∨ s.status = .ready) ∧ ∃ i : Instr, i.opcode = s.read s.pc ∧
      exec i (s.setStatus .running) = .next t) := by
  have fetch (q : State) (h : fetchAndRun exec q = .next t) : ∃ i : Instr, i.opcode = q.read q.pc ∧ exec i q = .next t := by
    rcases fetch_cases q with ⟨-, h'⟩ | ⟨d, i, hd, hi, h'⟩
    · simp [fetchAndRun, h', raise] at h
    · obtain ⟨j, hj, ho, -⟩ := rom_row_form hd (q.atOperand.read q.atOperand.pc) (q.atOperand.read (q.atOperand.pc + 1))
      obtain rfl : i = j := Option.some.inj (hi.symm.trans hj)
      exact ⟨i, ho, by simpa [fetchAndRun, h'] using h⟩
  rcases step_cases s with ⟨h1, h2⟩ | ⟨h1, h2⟩ | ⟨h1, h2⟩ | ⟨r, h1, h2⟩ <;> rw [h] at h2
  · have hs : s.setStatus .running = s := by rw [← h1]; rfl
    exact .inr ⟨.inl h1, by rw [hs]; exact fetch s h2.symm⟩
  · exact .inr ⟨.inr h1, fetch (s.setStatus .running) h2.symm⟩
  · exact .inl ⟨h1, by simpa using h2⟩
  · cases h2

end Sys2Proof.Machine
end

