-- ==== Sys2Proof/Laws/Lifecycle.lean ====
section
/-! SUPPORT. What the host's operations answer, and that they keep memory in its canonical form (spec/70_reset_and_hazards.md
R146 to R150). -/

namespace Sys2Proof.Machine

/-- Outside a run a host operation answers. -/
theorem betweenRuns_next {α : Type} {s : State} (h : s.status ≠ .running) (v : α) : betweenRuns s v = .next v := by
  simp [betweenRuns, State.notRunning, h]

/-- Inside a run it is refused (R150). -/
theorem betweenRuns_refused {α : Type} {s : State} (h : s.status = .running) (v : α) :
    betweenRuns s v = .refused .hostDuringRun := by
  simp [betweenRuns, State.notRunning, h]

/-- What a host operation that answered was: one outside a run. -/
theorem betweenRuns_eq_next {α : Type} {s : State} {v w : α} (h : betweenRuns s v = .next w) :
    s.status ≠ .running ∧ w = v := by
  by_cases hs : s.status = .running
  · rw [betweenRuns_refused hs] at h
    cases h
  · rw [betweenRuns_next hs] at h
    exact ⟨hs, by simpa using h.symm⟩

/-- The flags after a reset: I alone is set (R148). -/
theorem State.flag_afterReset (s : State) (f : Flag) : s.afterReset.flag f = (f == .I) := by
  show bitOf State.resetP f.bit = _
  cases f <;> decide

/-- `load` keeps the canonical form. -/
theorem loadedMemory_wf {m : Memory} (h : m.wf) (prog : List Byte) : (loadedMemory prog m).wf :=
  Memory.writeWord_wf (Memory.writeBytes_wf h _ _) _ _

/-- A byte of loaded memory: the vector's two bytes, and every other as the image left it (R146). -/
theorem loadedMemory_read {m : Memory} (h : m.wf) (prog : List Byte) (b : Addr) :
    (loadedMemory prog m).read b =
      if b = 0xFFFD then 0x80 else if b = 0xFFFC then 0x00 else (m.writeBytes Config.programOrigin prog).read b := by
  have hw := Memory.writeBytes_wf h Config.programOrigin prog
  have h1 := Memory.read_write (Memory.write_wf hw 0xFFFC (lowByte 0x8000)) 0xFFFD b (highByte 0x8000)
  rw [Memory.read_write hw] at h1
  simp only [eq_comm (a := b)]
  exact h1

/-- A write of the whole state answers that state, with the model's own counter as it was. -/
theorem hostWriteState_next {w s : State} (hw : w.status ≠ .running) (hs : s.status ≠ .running) :
    hostWriteState w s = .next (w.setFreeCount s.freeCount) := by
  rw [hostWriteState, betweenRuns_next hs, if_pos]
  simpa [State.notRunning] using hw

end Sys2Proof.Machine
end

