-- ==== Sys2Proof/Tests/Slice0.lean ====
section
/-! SUPPORT. The model's own tests. Expected results are the spec's: the opcode rows and Encoding lines of 30_encoding.md
and of the family files, and the vectors of 95_test_vectors.md. The last part names, for every obligation with hypotheses, a
state and operands that meet them together. -/

namespace Sys2Proof.Tests

open Sys2Proof.Machine Sys2Proof.Claims

/-! ## Well-formedness: each check refuses an ill-formed term -/

/-- R53: EOR is no instruction where HAS_EOR is false. -/
theorem test_wf_refuses_eor_without_it : (Instr.eorImmediate 0x00).wellFormedWith false = false := by decide
/-- R53: every other mnemonic is one, and with HAS_EOR true so is EOR. -/
theorem test_wf_accepts : (Instr.brk).wellFormedWith false = true ∧ (Instr.eorImmediate 0x00).wellFormed = true := by decide
/-- R78: a store has no Immediate mode. -/
theorem test_wf_refuses_mode : (Descriptor.modeOk ⟨0x89, .STA, .access, .immediate, 2, 2⟩) = false ∧
    (Descriptor.wellFormed ⟨0x89, .STA, .access, .immediate, 2, 2⟩) = false := by decide
/-- R45: an Absolute form is three bytes long. -/
theorem test_wf_refuses_length : (Descriptor.lengthOk ⟨0xAD, .LDA, .access, .absolute, 2, 4⟩) = false ∧
    (Descriptor.wellFormed ⟨0xAD, .LDA, .access, .absolute, 2, 4⟩) = false := by decide
/-- R49: INC is tagged Arithmetic, not Access. -/
theorem test_wf_refuses_family : (Descriptor.familyOk ⟨0xE6, .INC, .access, .zeroPage, 2, 5⟩) = false ∧
    (Descriptor.wellFormed ⟨0xE6, .INC, .access, .zeroPage, 2, 5⟩) = false := by decide
/-- R50: the row as it stands in the table is accepted. -/
theorem test_wf_accepts_row : (Descriptor.wellFormed ⟨0xE6, .INC, .arithmetic, .zeroPage, 2, 5⟩) = true := by decide

/-! ## Decoding: every constructor, by its row of R50, low byte of a word first; and no byte is eaten beyond it -/

/-- The rows of LDA. -/
theorem test_decode_lda :
    decode [0xA9, 0x34, 0x77] = .ok (.ldaImmediate 0x34, [0x77]) ∧
    decode [0xA5, 0x34, 0x77] = .ok (.ldaZeroPage 0x34, [0x77]) ∧
    decode [0xB5, 0x34, 0x77] = .ok (.ldaZeroPageX 0x34, [0x77]) ∧
    decode [0xAD, 0x34, 0x12, 0x77] = .ok (.ldaAbsolute 0x1234, [0x77]) ∧
    decode [0xBD, 0x34, 0x12, 0x77] = .ok (.ldaAbsoluteX 0x1234, [0x77]) ∧
    decode [0xB9, 0x34, 0x12, 0x77] = .ok (.ldaAbsoluteY 0x1234, [0x77]) ∧
    decode [0xA1, 0x34, 0x77] = .ok (.ldaIndirectX 0x34, [0x77]) ∧
    decode [0xB1, 0x34, 0x77] = .ok (.ldaIndirectY 0x34, [0x77]) :=
  ⟨rfl, rfl, rfl, rfl, rfl, rfl, rfl, rfl⟩

/-- The rows of LDX. -/
theorem test_decode_ldx :
    decode [0xA2, 0x34, 0x77] = .ok (.ldxImmediate 0x34, [0x77]) ∧
    decode [0xA6, 0x34, 0x77] = .ok (.ldxZeroPage 0x34, [0x77]) ∧
    decode [0xB6, 0x34, 0x77] = .ok (.ldxZeroPageY 0x34, [0x77]) ∧
    decode [0xAE, 0x34, 0x12, 0x77] = .ok (.ldxAbsolute 0x1234, [0x77]) ∧
    decode [0xBE, 0x34, 0x12, 0x77] = .ok (.ldxAbsoluteY 0x1234, [0x77]) :=
  ⟨rfl, rfl, rfl, rfl, rfl⟩

/-- The rows of LDY. -/
theorem test_decode_ldy :
    decode [0xA0, 0x34, 0x77] = .ok (.ldyImmediate 0x34, [0x77]) ∧
    decode [0xA4, 0x34, 0x77] = .ok (.ldyZeroPage 0x34, [0x77]) ∧
    decode [0xB4, 0x34, 0x77] = .ok (.ldyZeroPageX 0x34, [0x77]) ∧
    decode [0xAC, 0x34, 0x12, 0x77] = .ok (.ldyAbsolute 0x1234, [0x77]) ∧
    decode [0xBC, 0x34, 0x12, 0x77] = .ok (.ldyAbsoluteX 0x1234, [0x77]) :=
  ⟨rfl, rfl, rfl, rfl, rfl⟩

/-- The rows of STA. -/
theorem test_decode_sta :
    decode [0x85, 0x34, 0x77] = .ok (.staZeroPage 0x34, [0x77]) ∧
    decode [0x95, 0x34, 0x77] = .ok (.staZeroPageX 0x34, [0x77]) ∧
    decode [0x8D, 0x34, 0x12, 0x77] = .ok (.staAbsolute 0x1234, [0x77]) ∧
    decode [0x9D, 0x34, 0x12, 0x77] = .ok (.staAbsoluteX 0x1234, [0x77]) ∧
    decode [0x99, 0x34, 0x12, 0x77] = .ok (.staAbsoluteY 0x1234, [0x77]) ∧
    decode [0x81, 0x34, 0x77] = .ok (.staIndirectX 0x34, [0x77]) ∧
    decode [0x91, 0x34, 0x77] = .ok (.staIndirectY 0x34, [0x77]) :=
  ⟨rfl, rfl, rfl, rfl, rfl, rfl, rfl⟩

/-- The rows of STX. -/
theorem test_decode_stx :
    decode [0x86, 0x34, 0x77] = .ok (.stxZeroPage 0x34, [0x77]) ∧
    decode [0x96, 0x34, 0x77] = .ok (.stxZeroPageY 0x34, [0x77]) ∧
    decode [0x8E, 0x34, 0x12, 0x77] = .ok (.stxAbsolute 0x1234, [0x77]) :=
  ⟨rfl, rfl, rfl⟩

/-- The rows of STY. -/
theorem test_decode_sty :
    decode [0x84, 0x34, 0x77] = .ok (.styZeroPage 0x34, [0x77]) ∧
    decode [0x94, 0x34, 0x77] = .ok (.styZeroPageX 0x34, [0x77]) ∧
    decode [0x8C, 0x34, 0x12, 0x77] = .ok (.styAbsolute 0x1234, [0x77]) :=
  ⟨rfl, rfl, rfl⟩

/-- The rows of TAX. -/
theorem test_decode_tax :
    decode [0xAA, 0x77] = .ok (.tax, [0x77]) :=
  rfl

/-- The rows of TXA. -/
theorem test_decode_txa :
    decode [0x8A, 0x77] = .ok (.txa, [0x77]) :=
  rfl

/-- The rows of TAY. -/
theorem test_decode_tay :
    decode [0xA8, 0x77] = .ok (.tay, [0x77]) :=
  rfl

/-- The rows of TYA. -/
theorem test_decode_tya :
    decode [0x98, 0x77] = .ok (.tya, [0x77]) :=
  rfl

/-- The rows of ADC. -/
theorem test_decode_adc :
    decode [0x69, 0x34, 0x77] = .ok (.adcImmediate 0x34, [0x77]) ∧
    decode [0x65, 0x34, 0x77] = .ok (.adcZeroPage 0x34, [0x77]) ∧
    decode [0x75, 0x34, 0x77] = .ok (.adcZeroPageX 0x34, [0x77]) ∧
    decode [0x6D, 0x34, 0x12, 0x77] = .ok (.adcAbsolute 0x1234, [0x77]) ∧
    decode [0x7D, 0x34, 0x12, 0x77] = .ok (.adcAbsoluteX 0x1234, [0x77]) ∧
    decode [0x79, 0x34, 0x12, 0x77] = .ok (.adcAbsoluteY 0x1234, [0x77]) ∧
    decode [0x61, 0x34, 0x77] = .ok (.adcIndirectX 0x34, [0x77]) ∧
    decode [0x71, 0x34, 0x77] = .ok (.adcIndirectY 0x34, [0x77]) :=
  ⟨rfl, rfl, rfl, rfl, rfl, rfl, rfl, rfl⟩

/-- The rows of SBC. -/
theorem test_decode_sbc :
    decode [0xE9, 0x34, 0x77] = .ok (.sbcImmediate 0x34, [0x77]) ∧
    decode [0xE5, 0x34, 0x77] = .ok (.sbcZeroPage 0x34, [0x77]) ∧
    decode [0xF5, 0x34, 0x77] = .ok (.sbcZeroPageX 0x34, [0x77]) ∧
    decode [0xED, 0x34, 0x12, 0x77] = .ok (.sbcAbsolute 0x1234, [0x77]) ∧
    decode [0xFD, 0x34, 0x12, 0x77] = .ok (.sbcAbsoluteX 0x1234, [0x77]) ∧
    decode [0xF9, 0x34, 0x12, 0x77] = .ok (.sbcAbsoluteY 0x1234, [0x77]) ∧
    decode [0xE1, 0x34, 0x77] = .ok (.sbcIndirectX 0x34, [0x77]) ∧
    decode [0xF1, 0x34, 0x77] = .ok (.sbcIndirectY 0x34, [0x77]) :=
  ⟨rfl, rfl, rfl, rfl, rfl, rfl, rfl, rfl⟩

/-- The rows of INC. -/
theorem test_decode_inc :
    decode [0xE6, 0x34, 0x77] = .ok (.incZeroPage 0x34, [0x77]) ∧
    decode [0xF6, 0x34, 0x77] = .ok (.incZeroPageX 0x34, [0x77]) ∧
    decode [0xEE, 0x34, 0x12, 0x77] = .ok (.incAbsolute 0x1234, [0x77]) ∧
    decode [0xFE, 0x34, 0x12, 0x77] = .ok (.incAbsoluteX 0x1234, [0x77]) :=
  ⟨rfl, rfl, rfl, rfl⟩

/-- The rows of DEC. -/
theorem test_decode_dec :
    decode [0xC6, 0x34, 0x77] = .ok (.decZeroPage 0x34, [0x77]) ∧
    decode [0xD6, 0x34, 0x77] = .ok (.decZeroPageX 0x34, [0x77]) ∧
    decode [0xCE, 0x34, 0x12, 0x77] = .ok (.decAbsolute 0x1234, [0x77]) ∧
    decode [0xDE, 0x34, 0x12, 0x77] = .ok (.decAbsoluteX 0x1234, [0x77]) :=
  ⟨rfl, rfl, rfl, rfl⟩

/-- The rows of INX. -/
theorem test_decode_inx :
    decode [0xE8, 0x77] = .ok (.inx, [0x77]) :=
  rfl

/-- The rows of DEX. -/
theorem test_decode_dex :
    decode [0xCA, 0x77] = .ok (.dex, [0x77]) :=
  rfl

/-- The rows of INY. -/
theorem test_decode_iny :
    decode [0xC8, 0x77] = .ok (.iny, [0x77]) :=
  rfl

/-- The rows of DEY. -/
theorem test_decode_dey :
    decode [0x88, 0x77] = .ok (.dey, [0x77]) :=
  rfl

/-- The rows of ASL. -/
theorem test_decode_asl :
    decode [0x0A, 0x77] = .ok (.aslAccumulator, [0x77]) ∧
    decode [0x06, 0x34, 0x77] = .ok (.aslZeroPage 0x34, [0x77]) ∧
    decode [0x16, 0x34, 0x77] = .ok (.aslZeroPageX 0x34, [0x77]) ∧
    decode [0x0E, 0x34, 0x12, 0x77] = .ok (.aslAbsolute 0x1234, [0x77]) ∧
    decode [0x1E, 0x34, 0x12, 0x77] = .ok (.aslAbsoluteX 0x1234, [0x77]) :=
  ⟨rfl, rfl, rfl, rfl, rfl⟩

/-- The rows of LSR. -/
theorem test_decode_lsr :
    decode [0x4A, 0x77] = .ok (.lsrAccumulator, [0x77]) ∧
    decode [0x46, 0x34, 0x77] = .ok (.lsrZeroPage 0x34, [0x77]) ∧
    decode [0x56, 0x34, 0x77] = .ok (.lsrZeroPageX 0x34, [0x77]) ∧
    decode [0x4E, 0x34, 0x12, 0x77] = .ok (.lsrAbsolute 0x1234, [0x77]) ∧
    decode [0x5E, 0x34, 0x12, 0x77] = .ok (.lsrAbsoluteX 0x1234, [0x77]) :=
  ⟨rfl, rfl, rfl, rfl, rfl⟩

/-- The rows of ROL. -/
theorem test_decode_rol :
    decode [0x2A, 0x77] = .ok (.rolAccumulator, [0x77]) ∧
    decode [0x26, 0x34, 0x77] = .ok (.rolZeroPage 0x34, [0x77]) ∧
    decode [0x36, 0x34, 0x77] = .ok (.rolZeroPageX 0x34, [0x77]) ∧
    decode [0x2E, 0x34, 0x12, 0x77] = .ok (.rolAbsolute 0x1234, [0x77]) ∧
    decode [0x3E, 0x34, 0x12, 0x77] = .ok (.rolAbsoluteX 0x1234, [0x77]) :=
  ⟨rfl, rfl, rfl, rfl, rfl⟩

/-- The rows of ROR. -/
theorem test_decode_ror :
    decode [0x6A, 0x77] = .ok (.rorAccumulator, [0x77]) ∧
    decode [0x66, 0x34, 0x77] = .ok (.rorZeroPage 0x34, [0x77]) ∧
    decode [0x76, 0x34, 0x77] = .ok (.rorZeroPageX 0x34, [0x77]) ∧
    decode [0x6E, 0x34, 0x12, 0x77] = .ok (.rorAbsolute 0x1234, [0x77]) ∧
    decode [0x7E, 0x34, 0x12, 0x77] = .ok (.rorAbsoluteX 0x1234, [0x77]) :=
  ⟨rfl, rfl, rfl, rfl, rfl⟩

/-- The rows of AND. -/
theorem test_decode_and :
    decode [0x29, 0x34, 0x77] = .ok (.andImmediate 0x34, [0x77]) ∧
    decode [0x25, 0x34, 0x77] = .ok (.andZeroPage 0x34, [0x77]) ∧
    decode [0x35, 0x34, 0x77] = .ok (.andZeroPageX 0x34, [0x77]) ∧
    decode [0x2D, 0x34, 0x12, 0x77] = .ok (.andAbsolute 0x1234, [0x77]) ∧
    decode [0x3D, 0x34, 0x12, 0x77] = .ok (.andAbsoluteX 0x1234, [0x77]) ∧
    decode [0x39, 0x34, 0x12, 0x77] = .ok (.andAbsoluteY 0x1234, [0x77]) ∧
    decode [0x21, 0x34, 0x77] = .ok (.andIndirectX 0x34, [0x77]) ∧
    decode [0x31, 0x34, 0x77] = .ok (.andIndirectY 0x34, [0x77]) :=
  ⟨rfl, rfl, rfl, rfl, rfl, rfl, rfl, rfl⟩

/-- The rows of ORA. -/
theorem test_decode_ora :
    decode [0x09, 0x34, 0x77] = .ok (.oraImmediate 0x34, [0x77]) ∧
    decode [0x05, 0x34, 0x77] = .ok (.oraZeroPage 0x34, [0x77]) ∧
    decode [0x15, 0x34, 0x77] = .ok (.oraZeroPageX 0x34, [0x77]) ∧
    decode [0x0D, 0x34, 0x12, 0x77] = .ok (.oraAbsolute 0x1234, [0x77]) ∧
    decode [0x1D, 0x34, 0x12, 0x77] = .ok (.oraAbsoluteX 0x1234, [0x77]) ∧
    decode [0x19, 0x34, 0x12, 0x77] = .ok (.oraAbsoluteY 0x1234, [0x77]) ∧
    decode [0x01, 0x34, 0x77] = .ok (.oraIndirectX 0x34, [0x77]) ∧
    decode [0x11, 0x34, 0x77] = .ok (.oraIndirectY 0x34, [0x77]) :=
  ⟨rfl, rfl, rfl, rfl, rfl, rfl, rfl, rfl⟩

/-- The rows of EOR. -/
theorem test_decode_eor :
    decode [0x49, 0x34, 0x77] = .ok (.eorImmediate 0x34, [0x77]) ∧
    decode [0x45, 0x34, 0x77] = .ok (.eorZeroPage 0x34, [0x77]) ∧
    decode [0x55, 0x34, 0x77] = .ok (.eorZeroPageX 0x34, [0x77]) ∧
    decode [0x4D, 0x34, 0x12, 0x77] = .ok (.eorAbsolute 0x1234, [0x77]) ∧
    decode [0x5D, 0x34, 0x12, 0x77] = .ok (.eorAbsoluteX 0x1234, [0x77]) ∧
    decode [0x59, 0x34, 0x12, 0x77] = .ok (.eorAbsoluteY 0x1234, [0x77]) ∧
    decode [0x41, 0x34, 0x77] = .ok (.eorIndirectX 0x34, [0x77]) ∧
    decode [0x51, 0x34, 0x77] = .ok (.eorIndirectY 0x34, [0x77]) :=
  ⟨rfl, rfl, rfl, rfl, rfl, rfl, rfl, rfl⟩

/-- The rows of BRK. -/
theorem test_decode_brk :
    decode [0x00, 0x77] = .ok (.brk, [0x77]) :=
  rfl

/-- One word of every family written bit by bit (R50, R51). -/
theorem test_decode_bits :
    decode [0b10111110, 0b00110100, 0b00010010] = .ok (.ldxAbsoluteY 0x1234, []) ∧
    decode [0b10011000] = .ok (.tya, []) ∧
    decode [0b01110001, 0b00100000] = .ok (.adcIndirectY 0x20, []) ∧
    decode [0b11010110, 0b11111111] = .ok (.decZeroPageX 0xFF, []) ∧
    decode [0b01101010] = .ok (.rorAccumulator, []) ∧
    decode [0b00011001, 0b00000001, 0b10000000] = .ok (.oraAbsoluteY 0x8001, []) ∧
    decode [0b00000000] = .ok (.brk, []) := ⟨rfl, rfl, rfl, rfl, rfl, rfl, rfl⟩

/-- Bytes with no row, a missing operand, and no byte at all (R48, R52, S8). -/
theorem test_decode_rejects :
    decode [0x02] = .error (.unrecognizedOpcode 0x02) ∧ decode [0x4C, 0x00, 0x80] = .error (.unrecognizedOpcode 0x4C) ∧
    decode [0xFF] = .error (.unrecognizedOpcode 0xFF) ∧ (decode [0xAD, 0x00]).toOption = none ∧
    (decode []).toOption = none := ⟨rfl, rfl, rfl, rfl, rfl⟩

/-- The encoder, from the Encoding lines (R103, R98, R128). -/
theorem test_encode :
    encode (.staAbsolute 0x0200) = [0x8D, 0x00, 0x02] ∧ encode .brk = [0x00] ∧
    encode (.eorIndirectX 0x20) = [0x41, 0x20] := by decide

/-- Table words: bit 0 is the low bit of the first byte; operand bits the table gives no row are zero. -/
theorem test_decodeTableWord :
    decodeTableWord 8 0xA9 = some (.ldaImmediate 0x00) ∧ decodeTableWord 16 0x37A9 = some (.ldaImmediate 0x37) ∧
    decodeTableWord 8 0x12AD = some (.ldaAbsolute 0x0000) ∧ decodeTableWord 24 0x02008D = some (.staAbsolute 0x0200) ∧
    decodeTableWord 8 0x00 = some .brk ∧ decodeTableWord 8 0xEA = none := ⟨rfl, rfl, rfl, rfl, rfl, rfl⟩

/-! ## A small state, and one step of it -/

/-- A running core with P, A, X, Y as given, the instruction bytes at 0x8000 and some bytes of memory. -/
def start (p a x y : Byte) (bytes : List Byte) (cells : List (Addr × Byte)) : State :=
  let m := cells.foldl (fun m c => m.write c.1 c.2) Memory.zeroed
  { construct with a := a, x := x, y := y, p := p, pc := 0x8000, mem := m.writeBytes 0x8000 bytes, status := .running }

/-- What a result's next state shows. -/
def after {α : Type} (r : Result) (f : State → α) : Option α :=
  match r with
  | .next t => some (f t)
  | .fault _ => none
  | .refused _ => none

/-- The four flags N, V, Z, C, in the order of the spec's tables. -/
def nvzc (s : State) : List Nat := [Flag.N, .V, .Z, .C].map fun f => (s.flag f).toNat

/-- One step from such a state, and what its next state shows. -/
def one {α : Type} (p a x y : Byte) (bytes : List Byte) (cells : List (Addr × Byte)) (f : State → α) : Option α :=
  after (step (start p a x y bytes cells)) f

/-! ## Addressing modes (95_test_vectors.md 2.2) -/

/-- LDA through every mode it has, with the wraps. -/
theorem test_lda_modes : ([(0x00, 0x00, [0xA9, 0x37], [], 0x37),
     (0x00, 0x00, [0xA5, 0x10], [(0x0010, 0x11)], 0x11),
     (0x05, 0x00, [0xB5, 0x10], [(0x0015, 0x22)], 0x22),
     (0xFF, 0x00, [0xB5, 0x80], [(0x007F, 0x33)], 0x33),
     (0x00, 0x00, [0xAD, 0x00, 0x02], [(0x0200, 0x55)], 0x55),
     (0x20, 0x00, [0xBD, 0xF0, 0x02], [(0x0310, 0x66)], 0x66),
     (0x20, 0x00, [0xBD, 0xF0, 0xFF], [(0x0010, 0x77)], 0x77),
     (0x00, 0x01, [0xB9, 0xFF, 0xFF], [(0x0000, 0x88)], 0x88),
     (0x04, 0x00, [0xA1, 0x20], [(0x0024, 0x00), (0x0025, 0x03), (0x0300, 0x99)], 0x99),
     (0x14, 0x00, [0xA1, 0xF0], [(0x0004, 0x00), (0x0005, 0x04), (0x0400, 0xAA)], 0xAA),
     (0x00, 0x00, [0xA1, 0xFF], [(0x00FF, 0x34), (0x0000, 0x12), (0x1234, 0xBB)], 0xBB),
     (0x00, 0x05, [0xB1, 0x20], [(0x0020, 0x00), (0x0021, 0x03), (0x0305, 0xCC)], 0xCC),
     (0x00, 0x20, [0xB1, 0x20], [(0x0020, 0xF0), (0x0021, 0xFF), (0x0010, 0xDD)], 0xDD),
     (0x00, 0x01, [0xB1, 0xFF], [(0x00FF, 0x00), (0x0000, 0x05), (0x0501, 0xEE)], 0xEE)] :
    List (Byte × Byte × List Byte × List (Addr × Byte) × Byte)).all
    (fun (x, y, bs, m, v) => one 0x00 0x00 x y bs m (fun t => t.a) == some v) = true := by
  decide

/-- LDX through ZeroPageY, wrapping; STA through ZeroPageX, wrapping. -/
theorem test_zero_page_wrap :
    one 0x00 0x00 0x00 0x02 [0xB6, 0xFF] [(0x0001, 0x44)] (fun t => t.x) = some 0x44 ∧
    one 0x00 0x5A 0x01 0x00 [0x95, 0xFF] [] (fun t => (t.read 0x0000, t.read 0x0100)) = some (0x5A, 0x00) := by
  decide

/-- The two modes without an opcode, and the two without an address. -/
theorem test_modes_without_opcode :
    resolveAt .indirect ((start 0 0 0 0 [0x00, 0x34, 0x12] []).atOperand) = some 0x1234 ∧
    resolveAt .relative ((start 0 0 0 0 [0x00, 0xFE] []).atOperand) = some 0x80FF ∧
    resolveAt .implicit (start 0 0 0 0 [] []) = none ∧ resolveAt .accumulator (start 0 0 0 0 [] []) = none := by
  decide

/-- PC after the step, from 0x8000 (95_test_vectors.md 2.1), and the wrap of PC and of the operand fetch (P6). -/
theorem test_next_pc :
    ([([0x00], 0x8001), ([0xA9], 0x8002), ([0xAD], 0x8003), ([0xBD], 0x8003), ([0xB1], 0x8002), ([0x0A], 0x8001),
      ([0xE8], 0x8001), ([0x96], 0x8002), ([0xFE], 0x8003), ([0x41], 0x8002)] : List (List Byte × Addr)).all
      (fun (bs, v) => one 0x00 0x00 0x00 0x00 bs [] (fun t => t.pc) == some v) = true ∧
    after (step ((start 0x24 0x00 0x01 0x00 [] [(0xFFFF, 0xA9), (0x0000, 0x33)]).setPc 0xFFFF)) (fun t => (t.a, t.pc)) =
      some (0x33, 0x0001) := by decide

/-! ## Loads, stores and transfers (95_test_vectors.md 2.3; S7; the examples of R101 to R104) -/

/-- Z and N from the loaded byte. -/
theorem test_lda_flags :
    ([(0x00, [0, 0, 1, 0]), (0x01, [0, 0, 0, 0]), (0x7F, [0, 0, 0, 0]), (0x80, [1, 0, 0, 0]), (0xFF, [1, 0, 0, 0])] :
      List (Byte × List Nat)).all
      (fun (v, f) => one 0x00 0x55 0x00 0x00 [0xA9, v] [] (fun t => (t.a, nvzc t)) == some (v, f)) = true ∧
    one 0x41 0x00 0x00 0x00 [0xA9, 0x00] [] (fun t => (t.a, nvzc t)) = some (0x00, [0, 1, 1, 1]) := by decide
theorem test_ldx : one 0x24 0x00 0x00 0x00 [0xA2, 0x7F] [] (fun t => (t.a, t.x, t.y, nvzc t)) =
    some (0x00, 0x7F, 0x00, [0, 0, 0, 0]) := by decide
theorem test_ldy : one 0x24 0x00 0x00 0x00 [0xA0, 0xFF] [] (fun t => (t.a, t.x, t.y, nvzc t)) =
    some (0x00, 0x00, 0xFF, [1, 0, 0, 0]) := by decide
/-- A store writes no flag, though it stores 0x00. -/
theorem test_sta : one 0x80 0x00 0x00 0x00 [0x85, 0x10] [(0x0010, 0x99)] (fun t => (t.read 0x0010, nvzc t)) =
    some (0x00, [1, 0, 0, 0]) ∧
    one 0x00 0x42 0x00 0x00 [0x8D, 0x00, 0x02] [] (fun t => (t.read 0x0200, t.read 0x0002)) = some (0x42, 0x00) := by
  decide
theorem test_stx : one 0x00 0x00 0x80 0x00 [0x8E, 0x00, 0x02] [] (fun t => (t.read 0x0200, nvzc t)) =
    some (0x80, [0, 0, 0, 0]) ∧ one 0x00 0x00 0x07 0x01 [0x96, 0x10] [] (fun t => t.read 0x0011) = some 0x07 := by
  decide
theorem test_sty : one 0x00 0x00 0xF5 0x01 [0x94, 0x10] [] (fun t => (t.read 0x0005, nvzc t)) =
    some (0x01, [0, 0, 0, 0]) := by decide
theorem test_tax : one 0x00 0x00 0x12 0x00 [0xAA] [] (fun t => (t.a, t.x, nvzc t)) = some (0x00, 0x00, [0, 0, 1, 0]) ∧
    one 0x00 0xC3 0x00 0x00 [0xAA] [] (fun t => (t.a, t.x, nvzc t)) = some (0xC3, 0xC3, [1, 0, 0, 0]) := by decide
theorem test_txa : one 0x00 0x00 0x7F 0x00 [0x8A] [] (fun t => (t.a, t.x, nvzc t)) = some (0x7F, 0x7F, [0, 0, 0, 0]) := by
  decide
theorem test_tay : one 0x00 0x80 0x00 0x00 [0xA8] [] (fun t => (t.a, t.y, nvzc t)) = some (0x80, 0x80, [1, 0, 0, 0]) := by
  decide
theorem test_tya : one 0x00 0x01 0x00 0x00 [0x98] [] (fun t => (t.a, t.y, nvzc t)) = some (0x00, 0x00, [0, 0, 1, 0]) := by
  decide

/-- ADC: the rows A, M, C in, A out, N V Z C out (95_test_vectors.md 2.4). -/
theorem test_adc : ([(0x00, 0x00, 0, 0x00, [0, 0, 1, 0]), (0x00, 0x00, 1, 0x01, [0, 0, 0, 0]),
     (0x01, 0x01, 0, 0x02, [0, 0, 0, 0]), (0xFF, 0x01, 0, 0x00, [0, 0, 1, 1]),
     (0xFF, 0x00, 1, 0x00, [0, 0, 1, 1]), (0x7F, 0x01, 0, 0x80, [1, 1, 0, 0]),
     (0x7F, 0x00, 1, 0x80, [1, 1, 0, 0]), (0x80, 0x80, 0, 0x00, [0, 1, 1, 1]),
     (0x80, 0xFF, 0, 0x7F, [0, 1, 0, 1]), (0xFF, 0xFF, 1, 0xFF, [1, 0, 0, 1]),
     (0x50, 0x50, 0, 0xA0, [1, 1, 0, 0]), (0x50, 0xD0, 0, 0x20, [0, 0, 0, 1]),
     (0xD0, 0x90, 0, 0x60, [0, 1, 0, 1]), (0xD0, 0xD0, 0, 0xA0, [1, 0, 0, 1]),
     (0x3F, 0x40, 1, 0x80, [1, 1, 0, 0])] :
    List (Byte × Byte × Byte × Byte × List Nat)).all
    (fun (a, m, c, r, f) => one c a 0x00 0x00 [0x69, m] [] (fun t => (t.a, nvzc t)) == some (r, f)) = true := by
  decide

/-- SBC: the rows A, M, C in, A out, N V Z C out (95_test_vectors.md 2.5). -/
theorem test_sbc : ([(0x00, 0x00, 1, 0x00, [0, 0, 1, 1]), (0x00, 0x00, 0, 0xFF, [1, 0, 0, 0]),
     (0x10, 0x01, 1, 0x0F, [0, 0, 0, 1]), (0x00, 0x01, 1, 0xFF, [1, 0, 0, 0]),
     (0x80, 0x01, 1, 0x7F, [0, 1, 0, 1]), (0x7F, 0xFF, 1, 0x80, [1, 1, 0, 0]),
     (0x05, 0x05, 0, 0xFF, [1, 0, 0, 0]), (0x05, 0x05, 1, 0x00, [0, 0, 1, 1]),
     (0x50, 0xB0, 0, 0x9F, [1, 1, 0, 0]), (0x50, 0xB0, 1, 0xA0, [1, 1, 0, 0]),
     (0xD0, 0x70, 1, 0x60, [0, 1, 0, 1]), (0xFF, 0xFF, 1, 0x00, [0, 0, 1, 1]),
     (0x01, 0x02, 1, 0xFF, [1, 0, 0, 0]), (0x40, 0x41, 0, 0xFE, [1, 0, 0, 0])] :
    List (Byte × Byte × Byte × Byte × List Nat)).all
    (fun (a, m, c, r, f) => one c a 0x00 0x00 [0xE9, m] [] (fun t => (t.a, nvzc t)) == some (r, f)) = true := by
  decide

/-- With D = 1, ADC stays binary (2.4; R83). -/
theorem test_adc_decimal_flag : one 0x08 0x09 0x00 0x00 [0x69, 0x01] [] (fun t => (t.a, t.p)) = some (0x0A, 0x08) := by
  decide

/-! ## Increments and decrements, C and V preset to 1 (95_test_vectors.md 2.6) -/

theorem test_inx : one 0x41 0x00 0xFF 0x00 [0xE8] [] (fun t => (t.x, nvzc t)) = some (0x00, [0, 1, 1, 1]) ∧
    one 0x41 0x00 0x7F 0x00 [0xE8] [] (fun t => (t.x, nvzc t)) = some (0x80, [1, 1, 0, 1]) := by decide
theorem test_dex : one 0x41 0x00 0x00 0x00 [0xCA] [] (fun t => (t.x, nvzc t)) = some (0xFF, [1, 1, 0, 1]) ∧
    one 0x41 0x00 0x01 0x00 [0xCA] [] (fun t => (t.x, nvzc t)) = some (0x00, [0, 1, 1, 1]) := by decide
theorem test_iny : one 0x41 0x00 0x00 0xFE [0xC8] [] (fun t => (t.y, nvzc t)) = some (0xFF, [1, 1, 0, 1]) := by decide
theorem test_dey : one 0x41 0x00 0x00 0x80 [0x88] [] (fun t => (t.y, nvzc t)) = some (0x7F, [0, 1, 0, 1]) := by decide
theorem test_inc : one 0x41 0x00 0x00 0x00 [0xE6, 0x10] [(0x0010, 0xFF)] (fun t => (t.read 0x0010, nvzc t)) =
    some (0x00, [0, 1, 1, 1]) ∧
    one 0x41 0x00 0x01 0x00 [0xF6, 0x0F] [(0x0010, 0x41)] (fun t => (t.read 0x0010, nvzc t)) = some (0x42, [0, 1, 0, 1]) := by
  decide
theorem test_dec : one 0x41 0x00 0x00 0x00 [0xC6, 0x10] [] (fun t => (t.read 0x0010, nvzc t)) =
    some (0xFF, [1, 1, 0, 1]) ∧
    one 0x41 0x00 0x00 0x00 [0xCE, 0x00, 0x03] [(0x0300, 0x80)] (fun t => (t.read 0x0300, nvzc t)) =
      some (0x7F, [0, 1, 0, 1]) := by decide

/-! ## Shifts and rotates, V preset to 1 (95_test_vectors.md 2.7) -/

theorem test_asl : ([(0x00, 0x40, 0x00, [0, 1, 1, 0]), (0x00, 0x41, 0x00, [0, 1, 1, 0]), (0x01, 0x40, 0x02, [0, 1, 0, 0]),
     (0x80, 0x40, 0x00, [0, 1, 1, 1]), (0xFF, 0x40, 0xFE, [1, 1, 0, 1]), (0x55, 0x40, 0xAA, [1, 1, 0, 0]),
     (0x55, 0x41, 0xAA, [1, 1, 0, 0])] :
    List (Byte × Byte × Byte × List Nat)).all
    (fun (a, p, r, f) => one p a 0x00 0x00 [0x0A] [] (fun t => (t.a, nvzc t)) == some (r, f)) = true := by
  decide
theorem test_asl_memory : one 0x40 0x11 0x00 0x00 [0x06, 0x10] [(0x0010, 0xC0)] (fun t => (t.a, t.read 0x0010, nvzc t)) =
      some (0x11, 0x80, [1, 1, 0, 1]) := by
  decide

theorem test_lsr : ([(0x00, 0x40, 0x00, [0, 1, 1, 0]), (0x00, 0x41, 0x00, [0, 1, 1, 0]), (0x01, 0x40, 0x00, [0, 1, 1, 1]),
     (0x80, 0x40, 0x40, [0, 1, 0, 0]), (0xFF, 0x40, 0x7F, [0, 1, 0, 1]), (0x55, 0x40, 0x2A, [0, 1, 0, 1]),
     (0x55, 0x41, 0x2A, [0, 1, 0, 1])] :
    List (Byte × Byte × Byte × List Nat)).all
    (fun (a, p, r, f) => one p a 0x00 0x00 [0x4A] [] (fun t => (t.a, nvzc t)) == some (r, f)) = true := by
  decide
theorem test_lsr_memory : one 0x40 0x11 0x02 0x00 [0x56, 0x0E] [(0x0010, 0x01)] (fun t => (t.a, t.read 0x0010, nvzc t)) =
      some (0x11, 0x00, [0, 1, 1, 1]) := by
  decide

theorem test_rol : ([(0x00, 0x40, 0x00, [0, 1, 1, 0]), (0x00, 0x41, 0x01, [0, 1, 0, 0]), (0x01, 0x40, 0x02, [0, 1, 0, 0]),
     (0x01, 0x41, 0x03, [0, 1, 0, 0]), (0x80, 0x40, 0x00, [0, 1, 1, 1]), (0x80, 0x41, 0x01, [0, 1, 0, 1]),
     (0xFF, 0x40, 0xFE, [1, 1, 0, 1]), (0xFF, 0x41, 0xFF, [1, 1, 0, 1]), (0x55, 0x40, 0xAA, [1, 1, 0, 0]),
     (0x55, 0x41, 0xAB, [1, 1, 0, 0])] :
    List (Byte × Byte × Byte × List Nat)).all
    (fun (a, p, r, f) => one p a 0x00 0x00 [0x2A] [] (fun t => (t.a, nvzc t)) == some (r, f)) = true := by
  decide
theorem test_rol_memory : one 0x41 0x11 0x00 0x00 [0x2E, 0x00, 0x02] [(0x0200, 0x80)] (fun t => (t.a, t.read 0x0200, nvzc t)) =
      some (0x11, 0x01, [0, 1, 0, 1]) := by
  decide

theorem test_ror : ([(0x00, 0x40, 0x00, [0, 1, 1, 0]), (0x00, 0x41, 0x80, [1, 1, 0, 0]), (0x01, 0x40, 0x00, [0, 1, 1, 1]),
     (0x01, 0x41, 0x80, [1, 1, 0, 1]), (0x80, 0x40, 0x40, [0, 1, 0, 0]), (0x80, 0x41, 0xC0, [1, 1, 0, 0]),
     (0xFF, 0x40, 0x7F, [0, 1, 0, 1]), (0xFF, 0x41, 0xFF, [1, 1, 0, 1]), (0x55, 0x40, 0x2A, [0, 1, 0, 1]),
     (0x55, 0x41, 0xAA, [1, 1, 0, 1])] :
    List (Byte × Byte × Byte × List Nat)).all
    (fun (a, p, r, f) => one p a 0x00 0x00 [0x6A] [] (fun t => (t.a, nvzc t)) == some (r, f)) = true := by
  decide
theorem test_ror_memory : one 0x41 0x11 0x01 0x00 [0x7E, 0xFF, 0x01] [(0x0200, 0x02)] (fun t => (t.a, t.read 0x0200, nvzc t)) =
      some (0x11, 0x81, [1, 1, 0, 0]) := by
  decide

/-! ## Bitwise, C and V preset to 1 (95_test_vectors.md 2.8) -/

theorem test_and : ([(0xF0, 0x0F, 0x00, [0, 1, 1, 1]), (0xFF, 0x80, 0x80, [1, 1, 0, 1]), (0x00, 0x00, 0x00, [0, 1, 1, 1]),
     (0xAA, 0x55, 0x00, [0, 1, 1, 1]), (0x3C, 0x3C, 0x3C, [0, 1, 0, 1])] :
    List (Byte × Byte × Byte × List Nat)).all
    (fun (a, m, r, f) => one 0x41 a 0x00 0x00 [0x29, m] [] (fun t => (t.a, nvzc t)) == some (r, f)) = true := by
  decide

theorem test_ora : ([(0xF0, 0x0F, 0xFF, [1, 1, 0, 1]), (0xFF, 0x80, 0xFF, [1, 1, 0, 1]), (0x00, 0x00, 0x00, [0, 1, 1, 1]),
     (0xAA, 0x55, 0xFF, [1, 1, 0, 1]), (0x3C, 0x3C, 0x3C, [0, 1, 0, 1])] :
    List (Byte × Byte × Byte × List Nat)).all
    (fun (a, m, r, f) => one 0x41 a 0x00 0x00 [0x09, m] [] (fun t => (t.a, nvzc t)) == some (r, f)) = true := by
  decide

theorem test_eor : ([(0xF0, 0x0F, 0xFF, [1, 1, 0, 1]), (0xFF, 0x80, 0x7F, [0, 1, 0, 1]), (0x00, 0x00, 0x00, [0, 1, 1, 1]),
     (0xAA, 0x55, 0xFF, [1, 1, 0, 1]), (0x3C, 0x3C, 0x00, [0, 1, 1, 1])] :
    List (Byte × Byte × Byte × List Nat)).all
    (fun (a, m, r, f) => one 0x41 a 0x00 0x00 [0x49, m] [] (fun t => (t.a, nvzc t)) == some (r, f)) = true := by
  decide

/-! ## Halt, faults, reset and the host (95_test_vectors.md 2.9, S8, P6; R98, R130 to R132) -/

/-- BRK halts with PC past it, and writes nothing else. -/
theorem test_brk : one 0x24 0x01 0x02 0x03 [0x00] [] (fun t => (t.status, t.pc, t.p, t.sp)) =
    some (.halted, 0x8001, 0x24, 0x00) ∧
    one 0x24 0x01 0x02 0x03 [0x00] [] (fun t => (t.a, t.x, t.y, t.mem == Memory.zeroed)) = some (0x01, 0x02, 0x03, true) := by
  decide

/-- The record of a result's fault, and of the status in the state it leaves. -/
def faultOf (r : Result) : Option (FaultRecord × Status × Byte × Memory) :=
  match r with
  | .next _ => none
  | .fault f => some (f.record, f.left.status, f.left.a, f.left.mem)
  | .refused _ => none

/-- A byte without a row faults with itself and its address. -/
theorem test_unrecognized_opcode :
    ([0x02, 0xEA, 0x4C, 0x20, 0x18, 0xFF] : List Byte).all (fun b =>
      faultOf (step (start 0x00 0x07 0x00 0x00 [b] [])) ==
        some (.unrecognizedOpcode b 0x8000, .faulted (.unrecognizedOpcode b 0x8000), 0x07, [(0x8000, b)])) = true := by
  decide

/-- A row that gives Implicit to LDA, or Accumulator to STA, faults in `EA` (R76, R131). -/
theorem test_unsupported_addressing_mode :
    (faultOf (romStep [⟨0xA9, .LDA, .access, .implicit, 1, 2⟩] (start 0 0 0 0 [0xA9] []))).map Prod.fst =
      some (.unsupportedAddressingMode 0xA9 0x8000 .implicit) ∧
    (faultOf (romStep [⟨0x85, .STA, .access, .accumulator, 1, 2⟩] (start 0 0 0 0 [0x85] []))).map Prod.fst =
      some (.unsupportedAddressingMode 0x85 0x8000 .accumulator) := by decide

/-- Construct, then reset with no load (2.9). -/
theorem test_reset : State.reset.pc = 0x0000 ∧ State.reset.p = 0x24 ∧ State.reset.sp = 0x00 ∧ State.reset.status = .ready ∧
    State.constructed.p = 0x00 := by decide

/-- A step of the reset machine fetches the 0x00 at 0x0000 and halts at 0x0001 (2.9). -/
theorem test_step_of_reset : after (step State.reset) (fun t => (t.status, t.pc)) = some (.halted, 0x0001) := by
  decide

/-- `load(A9 01)`, then `reset` (2.9). -/
theorem test_load_then_reset :
    after (load [0xA9, 0x01] construct) (fun t => (t.mem, t.pc, t.p)) =
      some ([(0x8000, 0xA9), (0x8001, 0x01), (0xFFFD, 0x80)], 0x0000, 0x00) ∧
    after (load [0xA9, 0x01] construct) (fun t => after (reset t) fun u => (u.pc, u.p, u.status)) =
      some (some (0x8000, 0x24, .ready)) := by decide

/-- A table word runs as the first instruction after reset. -/
theorem test_withFetchWord : after (step (State.reset.withFetchWord 16 0x37A9)) (fun t => (t.a, t.pc, t.status)) =
    some (0x37, 0x0002, .running) ∧
    after (step (State.reset.withFetchWord 24 0x02008D)) (fun t => (t.pc, t.status)) = some (0x0003, .running) := by
  decide

/-- A state for the witnesses: `LDA #$05` at 0x8000, some bytes in memory. -/
def sample : State := start 0x41 0x80 0xFF 0x01 [0xA9, 0x05] [(0x0000, 0x12), (0x00FF, 0x34), (0xFFFF, 0x56)]

/-- What a host read answers. -/
def seenByHost {α : Type} (r : Host.Outcome α Fault Refusal) : Option α :=
  match r with
  | .next v => some v
  | .fault _ => none
  | .refused _ => none

/-- P is seen with bits 4 and 5 masked (R18): after reset I alone shows. -/
theorem test_host_reads_p_masked :
    seenByHost (hostReadReg .P State.reset) = some 0x04 ∧
    seenByHost (hostReadReg .P (State.reset.setP 0xFF)) = some 0xCF ∧
    seenByHost (hostReadReg .SP (State.reset.setSp 0xFF)) = some 0xFF := by decide

/-- A write of the whole state leaves Faulted, and one register write does not (R132). -/
theorem test_host_write_state :
    (let s := sample.setStatus (.faulted (.unrecognizedOpcode 0x02 0x8000))
     after (hostWriteState State.reset s) (fun t => (t.status, t.a, t.read 0x8000)) = some (.ready, 0x00, 0x00) ∧
     after (hostWriteReg .A 0x07 s) (fun t => (t.status, t.a)) =
       some (.faulted (.unrecognizedOpcode 0x02 0x8000), 0x07)) := by decide

/-- Writing the blank byte takes an entry out, so equal memories are equal lists. -/
theorem test_memory_canonical :
    ((Memory.zeroed.write 0x0200 0x42).write 0x0010 0x07) = [(0x0010, 0x07), (0x0200, 0x42)] ∧
    (((Memory.zeroed.write 0x0200 0x42).write 0x0010 0x07).write 0x0200 0x00) = [(0x0010, 0x07)] := by decide

/-! ## Witnesses: a state and operands that meet an obligation's hypotheses -/

theorem witness_DecodeOfEncodeIsTheInstruction :
    (Instr.ldaImmediate 0xFF).wellFormedWith false = true ∧ (Instr.eorAbsolute 0xFFFF).wellFormedWith true = true := by decide
theorem witness_DecodedBytesAreTheEncoding :
    decodeWith (opcodeRomWith false) [0x8D, 0x00, 0x02, 0x77] = .ok (.staAbsolute 0x0200, [0x77]) ∧
    decodeWith (opcodeRomWith true) [0x41, 0xFF] = .ok (.eorIndirectX 0xFF, []) := ⟨rfl, rfl⟩
theorem witness_ByteWriteSetsThatByteAlone : sample.mem.wf := by decide
theorem witness_WordsAreLittleEndianBytePairs :
    sample.mem.wf ∧ (0x0001 : Addr) ≠ 0xFFFF ∧ (0x0001 : Addr) ≠ 0xFFFF + 1 := by decide
theorem witness_ZeroPageModesWrapInTheZeroPage :
    (Instr.ldaZeroPage 0xFF).mode ∈ [AddrMode.zeroPage, .zeroPageX, .zeroPageY] ∧
    (Instr.incZeroPageX 0x00).mode ∈ [AddrMode.zeroPage, .zeroPageX, .zeroPageY] ∧
    (Instr.ldxZeroPageY 0xFF).mode = .zeroPageY ∧ (Instr.stxZeroPageY 0x00).mode = .zeroPageY := by decide
theorem witness_ImplicitAndAccumulatorHaveNoAddress :
    Instr.brk.mode = .implicit ∧ Instr.aslAccumulator.mode = .accumulator ∧ Mnemonic.ROR ∈ [.ASL, .LSR, .ROL, .ROR] := by
  decide
theorem witness_CarriedOperandIsTheOneAtPc :
    decode [sample.read sample.pc, sample.read (sample.pc + 1), sample.read (sample.pc + 2)] =
      .ok (.ldaImmediate 0x05, [0x00]) ∧ (Instr.ldaImmediate 0x05).mode ≠ .accumulator := ⟨rfl, by decide⟩
theorem witness_LogicOperationsActBitByBit : (0 : Nat) < 8 ∧ (7 : Nat) < 8 := by decide

/-- Loads, and stores with their well-formed memory, at the ends of the operand ranges. -/
theorem witness_LoadsAndStoresMoveOneByte :
    (Instr.ldaImmediate 0xFF).mnemonic ∈ [Mnemonic.LDA, .LDX, .LDY] ∧
    (Instr.ldxZeroPageY 0xFF).mnemonic ∈ [Mnemonic.LDA, .LDX, .LDY] ∧
    (Instr.ldyAbsoluteX 0xFFFF).mnemonic ∈ [Mnemonic.LDA, .LDX, .LDY] ∧ sample.mem.wf ∧
    (Instr.staIndirectY 0xFF).mnemonic ∈ [Mnemonic.STA, .STX, .STY] ∧
    (Instr.stxAbsolute 0xFFFF).mnemonic ∈ [Mnemonic.STA, .STX, .STY] ∧
    (Instr.styZeroPageX 0x00).mnemonic ∈ [Mnemonic.STA, .STX, .STY] := by decide
theorem witness_AdcAddsWithCarry :
    (Instr.adcImmediate 0xFF).mnemonic = .ADC ∧ (Instr.adcIndirectX 0x00).mnemonic = .ADC := by decide
theorem witness_SbcSubtractsWithBorrow :
    (Instr.sbcImmediate 0xFF).mnemonic = .SBC ∧ (Instr.sbcIndirectY 0x00).mnemonic = .SBC := by decide
theorem witness_IncrementsAndDecrementsChangeOneByte :
    sample.mem.wf ∧ ((Instr.incZeroPage 0xFF).mnemonic = .INC ∨ (Instr.incZeroPage 0xFF).mnemonic = .DEC) ∧
    ((Instr.decAbsoluteX 0xFFFF).mnemonic = .INC ∨ (Instr.decAbsoluteX 0xFFFF).mnemonic = .DEC) := by decide
theorem witness_ShiftsAndRotatesShiftOneByte :
    (Instr.rolAccumulator.mnemonic ∈ [Mnemonic.ASL, .LSR, .ROL, .ROR] ∧ Instr.rolAccumulator.mode = .accumulator) ∧
    (sample.mem.wf ∧ (Instr.rorAbsoluteX 0xFFFF).mnemonic ∈ [Mnemonic.ASL, .LSR, .ROL, .ROR] ∧
      (Instr.rorAbsoluteX 0xFFFF).mode ≠ .accumulator) ∧
    ((Instr.aslZeroPage 0x00).mnemonic ∈ [Mnemonic.ASL, .LSR, .ROL, .ROR] ∧
      (Instr.lsrZeroPageX 0xFF).mnemonic ∈ [Mnemonic.ASL, .LSR, .ROL, .ROR]) := by decide
theorem witness_BitwiseInstructionsCombineIntoA :
    (Instr.andImmediate 0x00).mnemonic ∈ [Mnemonic.AND, .ORA, .EOR] ∧
    (Instr.oraIndirectY 0xFF).mnemonic ∈ [Mnemonic.AND, .ORA, .EOR] ∧
    (Instr.eorAbsolute 0xFFFF).mnemonic ∈ [Mnemonic.AND, .ORA, .EOR] := by decide

theorem witness_OnlyTheListedInstructionsWriteCarryAndOverflow :
    (∃ t, exec (.inx) sample = .next t) ∧ Mnemonic.INX ∉ [Mnemonic.ADC, .SBC, .ASL, .LSR, .ROL, .ROR] ∧
    (∃ t, exec (.aslZeroPage 0xFF) sample = .next t) ∧ Mnemonic.ASL ∉ [Mnemonic.ADC, .SBC] :=
  ⟨⟨_, rfl⟩, by decide, ⟨_, rfl⟩, by decide⟩
theorem witness_OnlyTheListedInstructionsWriteAXY :
    (∃ t, exec (.ldaImmediate 0x05) sample = .next t ∧ t.a ≠ sample.a) ∧
    (∃ t, exec .rolAccumulator sample = .next t ∧ t.a ≠ sample.a) ∧
    (∃ t, exec .inx sample = .next t ∧ t.x ≠ sample.x) ∧ (∃ t, exec .dey sample = .next t ∧ t.y ≠ sample.y) :=
  ⟨⟨_, rfl, by decide⟩, ⟨_, rfl, by decide⟩, ⟨_, rfl, by decide⟩, ⟨_, rfl, by decide⟩⟩
theorem witness_MemoryChangesOnlyAtTheStoredByte :
    sample.mem.wf ∧
    (∃ t, exec (.staAbsolute 0xFFFF) sample = .next t ∧
      resolve (Instr.staAbsolute 0xFFFF).operand sample.atOperand = some 0xFFFF) ∧
    (∃ t, exec (.rorZeroPageX 0x01) sample = .next t ∧ (Instr.rorZeroPageX 0x01).mode ≠ .accumulator ∧
      resolve (Instr.rorZeroPageX 0x01).operand sample.atOperand = some 0x0000) ∧
    (∃ t, exec .rorAccumulator sample = .next t ∧ Mnemonic.ROR ∉ [Mnemonic.STA, .STX, .STY, .INC, .DEC] ∧
      Instr.rorAccumulator.mode = .accumulator) :=
  ⟨by decide, ⟨_, rfl, rfl⟩, ⟨_, rfl, by decide, rfl⟩, ⟨_, rfl, by decide, rfl⟩⟩

/-- A step from the sample state answers a next state; so do the steps of the whole-machine rules. -/
theorem witness_NoStepWritesSpInterruptDecimalOrReservedBits : ∃ t, step sample = .next t := ⟨_, rfl⟩
theorem witness_NoStepReadsStackPointer : ∃ t, step sample = .next t := ⟨_, rfl⟩
theorem witness_NoStepReadsStatusBitsButCarry :
    (0 < 1 ∧ 1 < 8) ∧ (0 < 7 ∧ 7 < 8) ∧ ∃ t, step sample = .next t := ⟨by decide, by decide, _, rfl⟩

/-- Running in the middle of memory, and ready at the last address, with the operand at 0x0000. -/
theorem witness_StepRunsTheDecodedInstruction :
    (sample.status = .running ∧ decode [sample.read sample.pc, sample.read (sample.pc + 1), sample.read (sample.pc + 2)] =
      .ok (.ldaImmediate 0x05, [0x00])) ∧
    (let s := ((sample.write 0xFFFF 0xA9).setPc 0xFFFF).setStatus .ready
     s.status = .ready ∧ decode [s.read s.pc, s.read (s.pc + 1), s.read (s.pc + 2)] = .ok (.ldaImmediate 0x12, [0x00])) :=
  ⟨⟨rfl, rfl⟩, rfl, rfl⟩
/-- The second half also from a P with Z and N both 1. -/
theorem witness_StepKeepsInvariant : (Inv sample ∧ ∃ t, step sample = .next t) ∧
    (let s := sample.setP 0xFF
     s.mem.wf ∧ (s.flag .Z = true ∧ s.flag .N = true) ∧ ∃ t, step s = .next t) :=
  ⟨⟨by decide, _, rfl⟩, by decide, by decide, _, rfl⟩
theorem witness_HaltsExactlyAtOpcodeZero :
    (sample.status = .running ∧ ∃ t, step sample = .next t) ∧
    (State.reset.status = .ready ∧ ∃ t, step State.reset = .next t) := ⟨⟨rfl, _, rfl⟩, rfl, _, rfl⟩
theorem witness_StoppedCoreStaysStopped :
    (sample.setStatus .halted).status = .halted ∧
    (sample.setStatus (.faulted (.unrecognizedOpcode 0x02 0xFFFF))).status = .faulted (.unrecognizedOpcode 0x02 0xFFFF) :=
  ⟨rfl, rfl⟩

/-- No fuel, from Ready and from Halted; and enough to halt. -/
theorem witness_RunReturnsHaltedOrOutOfFuel :
    (∃ t, run 0 State.reset = .next t ∧ t.status = .running) ∧
    (∃ t, run 0 (State.reset.setStatus .halted) = .next t) ∧
    (∃ t, run 1 State.reset = .next t ∧ t.status = .halted) := ⟨⟨_, rfl, rfl⟩, ⟨_, rfl⟩, _, rfl, rfl⟩
theorem witness_RunBeginsFromReadyOrHaltedOnly :
    State.reset.status = .ready ∧ (State.reset.setStatus .halted).status = .halted ∧ sample.status = .running ∧
    (sample.setStatus (.faulted (.unrecognizedOpcode 0x02 0x0000))).status = .faulted (.unrecognizedOpcode 0x02 0x0000) :=
  ⟨rfl, rfl, rfl, rfl⟩

/-- `STA` onto the operand of the `LDX #` after it (P4); `STY` across the top of memory onto the opcode at 0x0002, which then has
no row; a shift of memory onto the opcode after it, which becomes one that has a row. -/
def selfModifying (y pc : Addr) (bytes : List Byte) : State :=
  { construct with a := 0x42, y := lowByte y, pc := pc, mem := Memory.zeroed.writeBytes pc bytes, status := .running }
theorem witness_StoreIntoNextInstructionIsSeen :
    (let s := selfModifying 0x00 0x8000 [0x8D, 0x04, 0x80, 0xA2, 0x00]
     s.mem.wf ∧ s.status = .running ∧
     decode [s.read s.pc, s.read (s.pc + 1), s.read (s.pc + 2)] = .ok (.staAbsolute 0x8004, []) ∧
     Stores (.staAbsolute 0x8004) ∧ decode [0xA2, 0x42, 0x00] = .ok (.ldxImmediate 0x42, [0x00])) ∧
    (let s := selfModifying 0xEA 0xFFFF [0x8C, 0x02, 0x00, 0xE8]
     s.mem.wf ∧ s.status = .running ∧
     decode [s.read s.pc, s.read (s.pc + 1), s.read (s.pc + 2)] = .ok (.styAbsolute 0x0002, []) ∧
     Stores (.styAbsolute 0x0002) ∧ romLookup opcodeRom (storedByte (.styAbsolute 0x0002) s 0x0002) = none) ∧
    (let s := selfModifying 0x00 0x8000 [0x4E, 0x03, 0x80, 0x94]
     s.mem.wf ∧ s.status = .running ∧
     decode [s.read s.pc, s.read (s.pc + 1), s.read (s.pc + 2)] = .ok (.lsrAbsolute 0x8003, []) ∧
     Stores (.lsrAbsolute 0x8003) ∧ decode [storedByte (.lsrAbsolute 0x8003) s 0x8003, 0x00, 0x00] =
       .ok (.lsrAccumulator, [0x00, 0x00])) :=
  ⟨⟨by decide, rfl, rfl, .inl (by decide), rfl⟩, ⟨by decide, rfl, rfl, .inl (by decide), rfl⟩,
    by decide, rfl, rfl, .inr (by decide), rfl⟩

/-- A byte without a row, running and ready, at both ends of memory; and the fault it makes. -/
theorem witness_UnlistedOpcodeFaultsWithByteAndAddress :
    (let s := (sample.write 0x0000 0x02).setPc 0x0000
     s.status = .running ∧ romLookup opcodeRom (s.read s.pc) = none) ∧
    (let s := ((sample.write 0xFFFF 0xFF).setPc 0xFFFF).setStatus .ready
     s.status = .ready ∧ romLookup opcodeRom (s.read s.pc) = none) ∧
    (∃ f, step (sample.write 0x8000 0x02) = .fault f) := ⟨⟨rfl, rfl⟩, ⟨rfl, rfl⟩, _, rfl⟩
theorem witness_FaultLeavesRegistersAndMemory :
    (∃ f, romStep [] sample = .fault f) ∧ (∃ f, romStep [⟨0xA9, .LDA, .access, .implicit, 1, 2⟩] sample = .fault f) ∧
    (∃ f, romStep [] (sample.setStatus .ready) = .fault f) := ⟨⟨_, rfl⟩, ⟨_, rfl⟩, _, rfl⟩

/-- Both ways a row can ask for an address its mode lacks. -/
theorem witness_ModeWithoutAddressFaults :
    (sample.status = .running ∧
      romLookup [⟨0xA9, .LDA, .access, .implicit, 1, 2⟩] (sample.read sample.pc) = some ⟨0xA9, .LDA, .access, .implicit, 1, 2⟩ ∧
      Family.access ≠ .halt ∧ Mnemonic.LDA ∉ [Mnemonic.TAX, .TXA, .TAY, .TYA, .INX, .DEX, .INY, .DEY, .BRK]) ∧
    (romLookup [⟨0xA9, .DEC, .arithmetic, .accumulator, 1, 2⟩] (sample.read sample.pc) =
        some ⟨0xA9, .DEC, .arithmetic, .accumulator, 1, 2⟩ ∧
      Family.arithmetic ≠ .halt ∧ Mnemonic.DEC ∈ [Mnemonic.STA, .STX, .STY, .INC, .DEC]) := by decide
theorem witness_WithoutEorItsBytesFault :
    (let s := sample.write 0x8000 0x41
     s.status = .running ∧ s.read s.pc ∈ [0x41, 0x45, 0x49, 0x4D, 0x51, 0x55, 0x59, 0x5D]) ∧
    (sample.status = .running ∧ sample.read sample.pc ∉ [0x41, 0x45, 0x49, 0x4D, 0x51, 0x55, 0x59, 0x5D]) := by decide

/-- A program of a given length. -/
def program (n : Nat) : List Byte := List.replicate n 0xFF
theorem program_length (n : Nat) : (program n).length = n := List.length_replicate

/-- No program, and the longest. -/
theorem witness_LoadWritesImageAndResetVector :
    construct.mem.wf ∧ construct.status ≠ .running ∧ ([] : List Byte).length ≤ 0x7FFC ∧
    (program 0x7FFC).length ≤ 0x7FFC :=
  ⟨by decide, by decide, by decide, (program_length _).le⟩
theorem witness_ResetSetsRegistersAndEntersAtTheVector :
    construct.status ≠ .running ∧ (sample.setStatus .halted).status ≠ .running ∧
    (sample.setStatus (.faulted (.unrecognizedOpcode 0x02 0x8000))).status ≠ .running := by decide
theorem witness_LaunchStateHoldsTheProgramAt8000 :
    ([] : List Byte).length ≤ 0x7FFC ∧ (program 0x7FFC).length ≤ 0x7FFC :=
  ⟨by decide, (program_length _).le⟩
theorem witness_HostOperationsAreRefusedDuringARun :
    sample.status = .running ∧ (program 0x7FFC).length ≤ 0x7FFC ∧ 0x7FFC < (program 0x7FFD).length :=
  ⟨rfl, (program_length _).le, by rw [program_length]; decide⟩
theorem witness_HostReadsBackWhatItWrites :
    (State.reset.mem.wf ∧ State.reset.status ≠ .running ∧ (sample.setStatus .halted).mem.wf ∧
      (sample.setStatus .halted).status ≠ .running) ∧ Reg8.SP ≠ Reg8.A ∧
    ((4 : Nat) = 4 ∨ (4 : Nat) = 5) ∧ ((5 : Nat) = 4 ∨ (5 : Nat) = 5) ∧
    (0xFFFE : Addr) ≠ 0xFFFF ∧ (0xFFFE : Addr) ≠ 0xFFFF + 1 := by decide

/-- From Ready, Halted and Faulted, a Ready, a Halted and a Faulted state. -/
theorem witness_HostWritesTheWholeState :
    State.reset.status ≠ .running ∧ (sample.setStatus .halted).status ≠ .running ∧
    (sample.setStatus (.faulted (.unrecognizedOpcode 0x02 0x8000))).status ≠ .running := by decide
theorem witness_FaultedIsLeftByResetOrWholeStateWriteOnly :
    (let s := sample.setStatus (.faulted (.unsupportedAddressingMode 0xA9 0xFFFF .implicit))
     s.status = .faulted (.unsupportedAddressingMode 0xA9 0xFFFF .implicit) ∧
     (∃ t, load [] s = .next t) ∧ (∃ t, hostWriteByte 0xFFFF 0x00 s = .next t) ∧
     (∃ t, hostWriteWord 0xFFFF 0x0000 s = .next t) ∧ (∃ t, hostWriteReg .P 0xFF s = .next t) ∧
     (∃ t, hostWritePc 0x8000 s = .next t)) ∧ State.reset.status ≠ .running :=
  ⟨⟨rfl, ⟨_, rfl⟩, ⟨_, rfl⟩, ⟨_, rfl⟩, ⟨_, rfl⟩, _, rfl⟩, by decide⟩

end Sys2Proof.Tests
end

section
/-! Proofs for spec/10_state.md: what an effect of an instruction can write, and what no instruction can tell apart. -/

namespace Sys2Proof.Machine

/-! ## What an instruction writes -/

namespace Effect

variable {i : Instr} {q t : State}

/-- Only the mnemonics listed, or a shift of A, change A (10_state.md R15). -/
theorem mnemonic_of_a_ne (h : Effect i q t) (hne : t.a ≠ q.a) :
    i.mnemonic ∈ [.LDA, .TXA, .TYA, .ADC, .SBC, .AND, .ORA, .EOR] ∨
      (i.mnemonic ∈ [.ASL, .LSR, .ROL, .ROR] ∧ i.mode = .accumulator) := by
  cases h with
  | toA v h => exact .inl (List.Sublist.subset (by decide) h)
  | sum r h => exact .inl (List.Sublist.subset (by decide) h)
  | shiftA f h hm => exact .inr ⟨h, hm⟩
  | toX | toY | store | modify | shiftMem => exact absurd rfl hne

/-- Only the mnemonics listed change X (10_state.md R15). -/
theorem mnemonic_of_x_ne (h : Effect i q t) (hne : t.x ≠ q.x) : i.mnemonic ∈ [.LDX, .TAX, .INX, .DEX] := by
  cases h with
  | toX v h => exact h
  | toA | toY | sum | store | modify | shiftA | shiftMem => exact absurd rfl hne

/-- Only the mnemonics listed change Y (10_state.md R15). -/
theorem mnemonic_of_y_ne (h : Effect i q t) (hne : t.y ≠ q.y) : i.mnemonic ∈ [.LDY, .TAY, .INY, .DEY] := by
  cases h with
  | toY v h => exact h
  | toA | toX | sum | store | modify | shiftA | shiftMem => exact absurd rfl hne

/-- No effect writes I or D (10_state.md R17). -/
theorem flag_kept (h : Effect i q t) {f : Flag} (hf : f = .I ∨ f = .D) : t.flag f = q.flag f := by
  have hne : f ≠ .C ∧ f ≠ .Z ∧ f ≠ .V ∧ f ≠ .N := by rcases hf with rfl | rfl <;> decide
  cases h with
  | toA | toX | toY | modify => simp [State.flag_updateZN, hne]
  | sum => simp [State.flag_addInto, hne]
  | store => rfl
  | shiftA => simp [flag_shiftedA, hne]
  | shiftMem => simp [flag_shiftedMem, hne]

/-- No effect writes bit 4 or 5 of P (10_state.md R18). -/
theorem reserved_kept (h : Effect i q t) : bitOf t.p 4 = bitOf q.p 4 ∧ bitOf t.p 5 = bitOf q.p 5 := by
  cases h with
  | toA | toX | toY | modify => exact State.reserved_updateZN _ _
  | sum => exact State.reserved_addInto _ _
  | store => exact ⟨rfl, rfl⟩
  | shiftA => exact reserved_shiftedA _ _
  | shiftMem => exact reserved_shiftedMem _ _ _

end Effect

/-! ## Two runs that no instruction can tell apart -/

/-- `u` agrees with `s` in all that a step reads: A, X, Y, PC, memory, the run status and the carry. -/
structure SameReads (s u : State) : Prop where
  a : u.a = s.a
  x : u.x = s.x
  y : u.y = s.y
  pc : u.pc = s.pc
  mem : u.mem = s.mem
  status : u.status = s.status
  carry : u.flag .C = s.flag .C

/-- Related states differ only in what no step reads, and stay related when the same write is made to both. -/
structure Unread (R : State → State → Prop) : Prop where
  reads : ∀ {s u}, R s u → SameReads s u
  setA : ∀ {s u} (v : Byte), R s u → R (s.setA v) (u.setA v)
  setX : ∀ {s u} (v : Byte), R s u → R (s.setX v) (u.setX v)
  setY : ∀ {s u} (v : Byte), R s u → R (s.setY v) (u.setY v)
  setFlag : ∀ {s u} (f : Flag) (b : Bool), R s u → R (s.setFlag f b) (u.setFlag f b)
  setPc : ∀ {s u} (v : Addr), R s u → R (s.setPc v) (u.setPc v)
  setStatus : ∀ {s u} (v : Status), R s u → R (s.setStatus v) (u.setStatus v)
  write : ∀ {s u} (ea : Addr) (v : Byte), R s u → R (s.write ea v) (u.write ea v)

/-- When the first run answers a next state, so does the second, and the two next states are related. -/
def SameNext (R : State → State → Prop) (r r' : Result) : Prop :=
  ∀ t, r = .next t → ∃ t', r' = .next t' ∧ R t t'

section
variable {R : State → State → Prop} {s u : State} {site : FetchSite} {o : Operand}

theorem SameNext.of_next (h : R s u) : SameNext R (.next s) (.next u) := by
  rintro t ⟨⟩
  exact ⟨u, rfl, h⟩

theorem SameNext.withOperand {k k' : Byte → Result} (ho : operandByte o u = operandByte o s)
    (hk : ∀ m, SameNext R (k m) (k' m)) : SameNext R (withOperand site o s k) (withOperand site o u k') := by
  intro t ht
  obtain ⟨m, hm, hkm⟩ := withOperand_next ht
  rw [withOperand_some (ho.trans hm)]
  exact hk m t hkm

theorem SameNext.withEA {k k' : Addr → Result} (ho : resolve o u = resolve o s)
    (hk : ∀ ea, SameNext R (k ea) (k' ea)) : SameNext R (withEA site o s k) (withEA site o u k') := by
  intro t ht
  obtain ⟨ea, he, hke⟩ := withEA_next ht
  rw [withEA_some (ho.trans he)]
  exact hk ea t hke

/-- Running a handler on related states: it starts at the operand, and PC is advanced after it in both. -/
theorem SameNext.runHandler (hR : Unread R) {f : FetchSite → State → Result} {opcode : Byte} {n : Nat} (hpc : u.pc = s.pc)
    (hf : SameNext R (f ⟨opcode, s.pc⟩ s.atOperand) (f ⟨opcode, s.pc⟩ u.atOperand)) :
    SameNext R (runHandler opcode n f s) (runHandler opcode n f u) := by
  intro t ht
  obtain ⟨q, hq, rfl⟩ := runHandler_next ht
  obtain ⟨q', hq', hqq⟩ := hf q hq
  rw [← hpc] at hq'
  rw [runHandler_of_next hq', (hR.reads hqq).pc]
  exact ⟨_, rfl, hR.setPc _ hqq⟩

/-! The writes the handlers make, the values equal in both runs. -/

namespace Unread

variable (hR : Unread R) (h : R s u)
include hR h

theorem updateZN (v : Byte) : R (s.updateZN v) (u.updateZN v) := hR.setFlag _ _ (hR.setFlag _ _ h)

theorem atOperand : R s.atOperand u.atOperand := by
  rw [State.atOperand, State.atOperand, (hR.reads h).pc]
  exact hR.setPc _ h

theorem toA {v v' : Byte} (hv : v' = v) :
    SameNext R (.next ((s.setA v).updateZN v)) (.next ((u.setA v').updateZN v')) :=
  hv ▸ .of_next (hR.updateZN (hR.setA _ h) _)

theorem toX {v v' : Byte} (hv : v' = v) :
    SameNext R (.next ((s.setX v).updateZN v)) (.next ((u.setX v').updateZN v')) :=
  hv ▸ .of_next (hR.updateZN (hR.setX _ h) _)

theorem toY {v v' : Byte} (hv : v' = v) :
    SameNext R (.next ((s.setY v).updateZN v)) (.next ((u.setY v').updateZN v')) :=
  hv ▸ .of_next (hR.updateZN (hR.setY _ h) _)

theorem sum {r r' : AddResult} (hr : r' = r) : SameNext R (.next (s.addInto r)) (.next (u.addInto r')) :=
  hr ▸ .of_next (hR.updateZN (hR.setFlag _ _ (hR.setFlag _ _ (hR.setA _ h))) _)

theorem store (ea : Addr) {v v' : Byte} (hv : v' = v) : SameNext R (.next (s.write ea v)) (.next (u.write ea v')) :=
  hv ▸ .of_next (hR.write _ _ h)

theorem modify (ea : Addr) {v v' : Byte} (hv : v' = v) :
    SameNext R (.next ((s.write ea v).updateZN v)) (.next ((u.write ea v').updateZN v')) :=
  hv ▸ .of_next (hR.updateZN (hR.write _ _ h) _)

theorem read_eq (ea : Addr) : u.read ea = s.read ea := congrArg (·.read ea) (hR.reads h).mem

theorem operand_eq (o : Operand) : operandByte o u = operandByte o s ∧ resolve o u = resolve o s :=
  let r := hR.reads h
  operand_congr o r.a r.x r.y r.pc r.mem

/-- The shape of every shift and rotate, on A or on a byte of memory. -/
theorem shiftForm_sameNext (f : Byte → Bool → Byte × Bool) :
    SameNext R (shiftForm f site o s) (shiftForm f site o u) := by
  have written {q q' : State} (hq : R q q') (out : Byte × Bool) :
      SameNext R (.next ((q.setFlag .C out.2).updateZN out.1)) (.next ((q'.setFlag .C out.2).updateZN out.1)) :=
    .of_next (hR.updateZN (hR.setFlag _ _ hq) _)
  unfold shiftForm
  rw [(hR.reads h).a, (hR.reads h).carry]
  split
  · exact written (hR.setA _ h) _
  · refine .withEA (hR.operand_eq h o).2 fun ea => ?_
    rw [hR.read_eq h]
    exact written (hR.write _ _ h) _

/-- Every handler, one case per mnemonic: the operand is the same in both runs, and so is what is written. -/
theorem execute_sameNext (m : Mnemonic) : SameNext R (execute m site o s) (execute m site o u) := by
  obtain ⟨ho, he⟩ := hR.operand_eq h o
  have hr := hR.reads h
  cases m with
  | LDA => exact .withOperand ho fun m => hR.toA h rfl
  | LDX => exact .withOperand ho fun m => hR.toX h rfl
  | LDY => exact .withOperand ho fun m => hR.toY h rfl
  | STA => exact .withEA he fun ea => hR.store h ea hr.a
  | STX => exact .withEA he fun ea => hR.store h ea hr.x
  | STY => exact .withEA he fun ea => hR.store h ea hr.y
  | TAX => exact hR.toX h hr.a
  | TXA => exact hR.toA h hr.x
  | TAY => exact hR.toY h hr.a
  | TYA => exact hR.toA h hr.y
  | ADC => exact .withOperand ho fun m => hR.sum h (by rw [hr.a, hr.carry])
  | SBC => exact .withOperand ho fun m => hR.sum h (by rw [hr.a, hr.carry])
  | INC => exact .withEA he fun ea => hR.modify h ea (by rw [hR.read_eq h])
  | DEC => exact .withEA he fun ea => hR.modify h ea (by rw [hR.read_eq h])
  | INX => exact hR.toX h (by rw [hr.x])
  | DEX => exact hR.toX h (by rw [hr.x])
  | INY => exact hR.toY h (by rw [hr.y])
  | DEY => exact hR.toY h (by rw [hr.y])
  | ASL | LSR | ROL | ROR => exact hR.shiftForm_sameNext h _
  | AND => exact .withOperand ho fun m => hR.toA h (by rw [hr.a])
  | ORA => exact .withOperand ho fun m => hR.toA h (by rw [hr.a])
  | EOR => exact .withOperand ho fun m => hR.toA h (by rw [hr.a])
  | BRK => exact .of_next (hR.setStatus _ h)

/-- Every instruction. -/
theorem exec_sameNext (i : Instr) : SameNext R (exec i s) (exec i u) := by
  by_cases hb : i.mnemonic = .BRK
  · rw [eq_brk hb]
    exact .of_next (hR.setStatus _ (hR.atOperand h))
  · rw [exec_eq_execute hb, exec_eq_execute hb]
    exact .runHandler hR (hR.reads h).pc (hR.execute_sameNext (hR.atOperand h) _)

/-- A fetch: PC and memory are the same, so the bytes at PC and the instruction are. -/
theorem fetchAndRun_sameNext : SameNext R (fetchAndRun exec s) (fetchAndRun exec u) := by
  have hbytes : u.instrBytes = s.instrBytes := by
    simp only [State.instrBytes, hR.read_eq h, (hR.reads h).pc]
  intro t ht
  unfold fetchAndRun at ht ⊢
  rw [hbytes]
  split at ht
  · exact hR.exec_sameNext h _ t ht
  · cases ht

/-- Every step: it reads nothing that the two states differ in. -/
theorem step_sameNext : SameNext R (step s) (step u) := by
  unfold step stepWith
  rw [(hR.reads h).status]
  split
  · exact hR.fetchAndRun_sameNext h
  · exact hR.fetchAndRun_sameNext (hR.setStatus _ h)
  · exact .of_next h
  · rintro t ⟨⟩

end Unread
end

/-! ## SP, and one bit of P -/

/-- The second state is the first with another SP. -/
def DifferInSp (v : Byte) (s u : State) : Prop := u = s.setSp v

theorem unread_sp (v : Byte) : Unread (DifferInSp v) where
  reads := by rintro s _ rfl; exact ⟨rfl, rfl, rfl, rfl, rfl, rfl, rfl⟩
  setA _ := by rintro rfl; rfl
  setX _ := by rintro rfl; rfl
  setY _ := by rintro rfl; rfl
  setFlag _ _ := by rintro rfl; rfl
  setPc _ := by rintro rfl; rfl
  setStatus _ := by rintro rfl; rfl
  write _ _ := by rintro rfl; rfl

/-- The second state is the first with another P, which differs in bit `k` at most. -/
def DifferInBit (k : Nat) (s u : State) : Prop := ∃ p, u = s.setP p ∧ ∀ j < 8, j ≠ k → bitOf p j = bitOf s.p j

theorem unread_bit {k : Nat} (hk : 0 < k) : Unread (DifferInBit k) where
  reads := by
    rintro s _ ⟨p, rfl, hp⟩
    exact ⟨rfl, rfl, rfl, rfl, rfl, rfl, hp 0 (by decide) hk.ne⟩
  setA _ := by rintro ⟨p, rfl, hp⟩; exact ⟨p, rfl, hp⟩
  setX _ := by rintro ⟨p, rfl, hp⟩; exact ⟨p, rfl, hp⟩
  setY _ := by rintro ⟨p, rfl, hp⟩; exact ⟨p, rfl, hp⟩
  setFlag f b := by
    rintro ⟨p, rfl, hp⟩
    refine ⟨withBit p f.bit b, rfl, fun j hj hne => ?_⟩
    rw [State.setFlag, State.setP_p, bitOf_withBit _ f.bit_lt hj, bitOf_withBit _ f.bit_lt hj, hp j hj hne]
  setPc _ := by rintro ⟨p, rfl, hp⟩; exact ⟨p, rfl, hp⟩
  setStatus _ := by rintro ⟨p, rfl, hp⟩; exact ⟨p, rfl, hp⟩
  write _ _ := by rintro ⟨p, rfl, hp⟩; exact ⟨p, rfl, hp⟩

/-- Setting a bit of P makes a state that differs in that bit at most. -/
theorem differInBit_withBit (s : State) {k : Nat} (hk : k < 8) (b : Bool) :
    DifferInBit k s (s.setP (withBit s.p k b)) :=
  ⟨_, rfl, fun _ hj hne => by rw [bitOf_withBit _ hk hj, if_neg hne.symm]⟩

/-- Two states that differ in one bit of P at most are one state once that bit is copied. -/
theorem DifferInBit.eq_of_copied {k : Nat} {s u : State} (h : DifferInBit k s u) (hk : k < 8) :
    u.setP (withBit u.p k (bitOf s.p k)) = s := by
  obtain ⟨p, rfl, hp⟩ := h
  have hbits : withBit p k (bitOf s.p k) = s.p := by
    refine BitVec.eq_of_getLsbD_eq fun j hj => ?_
    have hset := bitOf_withBit p hk hj (bitOf s.p k)
    by_cases hkj : k = j
    · subst hkj
      rwa [if_pos rfl] at hset
    · rw [if_neg hkj] at hset
      exact hset.trans (hp j hj (Ne.symm hkj))
  rw [State.setP_p, hbits]
  rfl

/-! ## Reset -/

/-- The model's reset state is construction followed by what reset writes (10_state.md R25, R26). -/
theorem State.reset_eq_afterReset : State.reset = construct.afterReset := rfl

end Sys2Proof.Machine

/-! ## The obligations -/

namespace Sys2Proof.Proofs

open Sys2Proof.Machine

/-- Settles O29, by the effects of an instruction: each writes at most one of A, X and Y. -/
theorem onlyTheListedInstructionsWriteAXY : Obligations.OnlyTheListedInstructionsWriteAXY := by
  intro i s t h
  obtain ⟨-, hbrk⟩ | ⟨-, q, he, hq⟩ := exec_cases i s
  · obtain rfl : t = s.atOperand.halt := by simpa [h] using hbrk
    exact ⟨absurd rfl, absurd rfl, absurd rfl⟩
  · obtain rfl : t = q.setPc (s.pc + BitVec.ofNat 16 i.length) := by simpa [h] using hq
    exact ⟨he.mnemonic_of_a_ne, he.mnemonic_of_x_ne, he.mnemonic_of_y_ne⟩

/-- Settles O31: a halted core idles, BRK writes PC and the status, and no effect of another instruction writes these. -/
theorem noStepWritesSpInterruptDecimalOrReservedBits : Obligations.NoStepWritesSpInterruptDecimalOrReservedBits := by
  intro s t h
  obtain ⟨-, rfl⟩ | ⟨-, i, -, hi⟩ := step_next h
  · exact ⟨rfl, rfl, rfl, rfl, rfl⟩
  obtain ⟨-, hbrk⟩ | ⟨-, q, he, hq⟩ := exec_cases i (s.setStatus .running)
  · obtain rfl : t = (s.setStatus .running).atOperand.halt := by simpa [hi] using hbrk
    exact ⟨rfl, rfl, rfl, rfl, rfl⟩
  · obtain rfl : t = q.setPc (s.pc + BitVec.ofNat 16 i.length) := by simpa [hi] using hq
    exact ⟨he.rest.1, he.flag_kept (.inl rfl), he.flag_kept (.inr rfl), he.reserved_kept⟩

/-- Settles O32: states that differ in SP alone are told apart by no step, and stay so. -/
theorem noStepReadsStackPointer : Obligations.NoStepReadsStackPointer := by
  intro s t v h
  obtain ⟨_, hu, rfl⟩ := (unread_sp v).step_sameNext rfl t h
  exact hu

/-- Settles O33: states that differ in one bit of P other than C are told apart by no step, and stay so. -/
theorem noStepReadsStatusBitsButCarry : Obligations.NoStepReadsStatusBitsButCarry := by
  intro s t k b hk0 hk8 h
  obtain ⟨u, hu, htu⟩ := (unread_bit hk0).step_sameNext (differInBit_withBit s hk8 b) t h
  exact ⟨u, hu, htu.eq_of_copied hk8⟩

/-- Settles O37: memory is as constructed, and reset sets I alone of the flags. -/
theorem resetMeetsInvariant : Obligations.ResetMeetsInvariant := by
  refine ⟨Memory.zeroed_wf, ?_⟩
  simp [State.reset_eq_afterReset, State.flag_afterReset]

/-- Settles O49: construction's values, and reset from them outside a run. -/
theorem resetStateIsConstructThenReset : Obligations.ResetStateIsConstructThenReset := by
  refine ⟨⟨rfl, rfl, rfl, rfl, rfl, rfl, Memory.read_zeroed, rfl⟩, ?_, rfl, rfl⟩
  rw [State.reset_eq_afterReset]
  exact betweenRuns_next (by decide) _

end Sys2Proof.Proofs
end

section
/-! Proofs for spec/20_memory.md: bytes and words of memory, what an instruction stores, and what every step keeps of memory
and of Z and N. -/

namespace Sys2Proof.Machine

open Sys2Proof.Claims

/-! ## Words -/

theorem lowByte_toNat (v : Addr) : (lowByte v).toNat = v.toNat % 256 := by
  simp [lowByte]

theorem highByte_toNat (v : Addr) : (highByte v).toNat = v.toNat / 256 := by
  have := v.isLt
  simp only [highByte, BitVec.extractLsb'_toNat, Nat.shiftRight_eq_div_pow]
  omega

namespace Memory

variable {m : Memory} (h : m.wf) (a v : Addr)
include h

/-- The high byte of a word goes to another address, at 0xFFFF too, so the low byte stays (20_memory.md R30, D5). -/
theorem read_writeWord_low : (m.writeWord a v).read a = lowByte v := by
  have hne : a + 1 ≠ a := by bv_omega
  rw [writeWord, read_write_other (write_wf h _ _) hne, read_write_same h]

theorem read_writeWord_high : (m.writeWord a v).read (a + 1) = highByte v :=
  read_write_same (write_wf h _ _) _ _

theorem read_writeWord_other {b : Addr} (hlow : b ≠ a) (hhigh : b ≠ a + 1) : (m.writeWord a v).read b = m.read b := by
  rw [writeWord, read_write_other (write_wf h _ _) hhigh.symm, read_write_other h hlow.symm]

theorem readWord_writeWord : (m.writeWord a v).readWord a = v := by
  rw [readWord, read_writeWord_low h, read_writeWord_high h, joinBytes_high_low]

end Memory

/-! ## What a storing instruction stores -/

/-- The storing forms are those of nine mnemonics. -/
theorem mnemonic_of_stores {i : Instr} (h : Stores i) :
    i.mnemonic ∈ [.STA, .STX, .STY, .INC, .DEC, .ASL, .LSR, .ROL, .ROR] := by
  obtain h | ⟨h, -⟩ := h
  · exact List.Sublist.subset (by decide) h
  · exact List.Sublist.subset (by decide) h

/-- Every storing form has an effective address (20_memory.md R34). -/
theorem resolve_of_stores {i : Instr} (h : Stores i) (s : State) : ∃ ea, resolve i.operand s = some ea := by
  have himp : i.operand.mode ≠ .implicit := mode_ne_implicit
    ((by decide : ∀ m ∈ [Mnemonic.STA, .STX, .STY, .INC, .DEC, .ASL, .LSR, .ROL, .ROR],
      m ∉ [Mnemonic.TAX, .TXA, .TAY, .TYA, .INX, .DEX, .INY, .DEY, .BRK]) _ (mnemonic_of_stores h))
  have hacc : i.operand.mode ≠ .accumulator := by
    obtain h | ⟨-, h⟩ := h
    · exact mode_ne_accumulator
        ((by decide : ∀ m ∈ [Mnemonic.STA, .STX, .STY, .INC, .DEC], m ∉ [Mnemonic.ASL, .LSR, .ROL, .ROR]) _ h)
    · exact h
  exact resolve_some himp hacc s

/-- The handler of a storing form writes its stored byte at the effective address, and memory nowhere else. -/
theorem execute_stores {i : Instr} (h : Stores i) {q : State} {ea : Addr} (he : resolve i.operand q = some ea)
    (site : FetchSite) :
    ∃ t, execute i.mnemonic site i.operand q = .next t ∧ t.mem = q.mem.write ea (storedByte i q ea) := by
  have shift (g : Byte → Bool → Byte × Bool) :
      ∃ t, shiftForm g site i.operand q = .next t ∧ t.mem = q.mem.write ea (g (q.read ea) (q.flag .C)).1 :=
    ⟨_, shiftForm_mem he, rfl⟩
  have hm := mnemonic_of_stores h
  unfold storedByte
  cases hi : i.mnemonic <;> rw [hi] at hm
  case STA => exact ⟨_, sta_next he, rfl⟩
  case STX => exact ⟨_, stx_next he, rfl⟩
  case STY => exact ⟨_, sty_next he, rfl⟩
  case INC => exact ⟨_, inc_next he, rfl⟩
  case DEC => exact ⟨_, dec_next he, rfl⟩
  case ASL => exact shift asl8
  case LSR => exact shift lsr8
  case ROL => exact shift rol8
  case ROR => exact shift ror8
  all_goals exact absurd hm (by decide)

/-- A storing instruction writes its stored byte at the effective address and leaves PC at the next opcode
(20_memory.md R34). -/
theorem exec_stores {i : Instr} (h : Stores i) (s : State) :
    ∃ ea t, resolve i.operand s.atOperand = some ea ∧ exec i s = .next t ∧ t.pc = s.pc + BitVec.ofNat 16 i.length ∧
      t.status = s.status ∧ t.mem = s.mem.write ea (storedByte i s ea) := by
  have hb : i.mnemonic ≠ .BRK := by
    intro hb
    have hm := mnemonic_of_stores h
    rw [hb] at hm
    exact absurd hm (by decide)
  obtain ⟨ea, he⟩ := resolve_of_stores h s.atOperand
  obtain ⟨q, hq, hmem⟩ := execute_stores h he ⟨i.opcode, s.pc⟩
  obtain ⟨q', hq', heff⟩ := execute_effect hb ⟨i.opcode, s.pc⟩ s.atOperand
  obtain rfl : q = q' := by simpa [hq] using hq'
  obtain ⟨-, hpc, hstatus, -⟩ := heff.rest
  refine ⟨ea, _, he, exec_of_execute hb hq, ?_, hstatus, hmem⟩
  rw [State.setPc_pc, hpc, State.atOperand_pc, pc_after]

/-! ## What an effect keeps -/

namespace Effect

variable {i : Instr} {q t : State}

/-- The effects that write memory are those of the storing forms (20_memory.md R34). -/
theorem mem_of_not_stores (h : Effect i q t) (hs : ¬ Stores i) : t.mem = q.mem := by
  cases h with
  | toA | toX | toY | sum | shiftA => rfl
  | store ea v h => exact absurd (.inl (List.Sublist.subset (by decide) h)) hs
  | modify ea v h => exact absurd (.inl (List.Sublist.subset (by decide) h)) hs
  | shiftMem f ea h hm => exact absurd (.inr ⟨h, hm⟩) hs

/-- An effect keeps the canonical form of memory: it writes one byte at most (log 15). -/
theorem mem_wf (h : Effect i q t) (hw : q.mem.wf) : t.mem.wf := by
  cases h with
  | toA | toX | toY | sum | shiftA => exact hw
  | store | modify | shiftMem => exact Memory.write_wf hw _ _

/-- An effect leaves P alone, or sets Z and N by `update_zero_and_negative` (41_flags_alu.md R80, R82). -/
theorem p_or_zn (h : Effect i q t) : t.p = q.p ∨ ∃ r, ZNOf r t := by
  have updated (u : State) (r : Byte) : ZNOf r (u.updateZN r) := by simp [ZNOf, State.flag_updateZN]
  cases h with
  | store => exact .inl rfl
  | toA | toX | toY | sum | modify | shiftA | shiftMem => exact .inr ⟨_, updated _ _⟩

end Effect

/-- No byte is zero and has bit 7 set, so an update of Z and N never sets both. -/
theorem not_z_and_n_of_zn {r : Byte} {t : State} (h : ZNOf r t) : ¬ (t.flag .Z = true ∧ t.flag .N = true) := by
  obtain ⟨hz, hn⟩ := h
  rintro ⟨hzt, hnt⟩
  obtain rfl := hz.mp hzt
  rw [hn] at hnt
  exact absurd hnt (by decide)

/-- An effect keeps the invariant. -/
theorem Effect.inv {i : Instr} {q t : State} (h : Effect i q t) (hq : Inv q) : Inv t := by
  obtain ⟨hw, hzn⟩ := hq
  refine ⟨h.mem_wf hw, ?_⟩
  obtain hp | ⟨r, hr⟩ := h.p_or_zn
  · rwa [State.flag_congr hp, State.flag_congr hp]
  · exact not_z_and_n_of_zn hr

/-! ## What a step does -/

/-- What every effect keeps, every step keeps, when moving PC and changing the status keep it too. -/
theorem step_keeps {K : State → Prop} (hstatus : ∀ s v, K s → K (s.setStatus v)) (hpc : ∀ s v, K s → K (s.setPc v))
    (heffect : ∀ {i q t}, Effect i q t → K q → K t) {s t : State} (h : step s = .next t) (hs : K s) : K t := by
  obtain ⟨-, rfl⟩ | ⟨-, i, -, hi⟩ := step_next h
  · exact hs
  have hq : K (s.setStatus .running).atOperand := hpc _ _ (hstatus _ _ hs)
  obtain ⟨-, hbrk⟩ | ⟨-, q, he, hn⟩ := exec_cases i (s.setStatus .running)
  · obtain rfl : t = (s.setStatus .running).atOperand.halt := by simpa [hi] using hbrk
    exact hstatus _ _ hq
  · obtain rfl : t = q.setPc (s.pc + BitVec.ofNat 16 i.length) := by simpa [hi] using hn
    exact hpc _ _ (heffect he hq)

theorem step_of_running {s : State} (h : s.status = .running) : step s = fetchAndRun exec s := by
  simp [step, stepWith, h]

/-- A fetch runs the instruction that the three bytes at PC decode to (42_execution_loop.md R93). -/
theorem fetchAndRun_of_decode {run : Instr → State → Result} {s : State} {i : Instr} {rest : List Byte}
    (h : decode [s.read s.pc, s.read (s.pc + 1), s.read (s.pc + 2)] = .ok (i, rest)) : fetchAndRun run s = run i s := by
  have hpc : s.pc + 1 + 1 = s.pc + 2 := by bv_omega
  obtain ⟨-, h'⟩ | ⟨d, j, rest', hd, hj, h'⟩ := decode_three (s.read s.pc) (s.read (s.pc + 1)) (s.read (s.pc + 2))
  · cases h.symm.trans h'
  obtain ⟨rfl, -⟩ : i = j ∧ rest = rest' := by simpa using h.symm.trans h'
  obtain ⟨hnone, -⟩ | ⟨d', j', hd', hj', hdec⟩ := fetch_cases s
  · simp [hd] at hnone
  obtain rfl : d = d' := by simpa [hd] using hd'
  have ho : fetchOperand d.mode s.atOperand = d.mode.operandOf (s.read (s.pc + 1)) (s.read (s.pc + 2)) := by
    rw [fetchOperand, State.atOperand_pc, hpc]
    rfl
  rw [ho] at hj'
  obtain rfl : i = j' := Option.some.inj (hj.symm.trans hj')
  simp [fetchAndRun, hdec]

/-- A fetch of a byte with no row raises UnrecognizedOpcode (60_exceptions.md R130). -/
theorem fetchAndRun_of_unlisted {run : Instr → State → Result} {s : State} (h : romLookup opcodeRom (s.read s.pc) = none) :
    fetchAndRun run s = raise (.unrecognizedOpcode (s.read s.pc) s.pc) s := by
  obtain ⟨-, hdec⟩ | ⟨d, -, hd, -⟩ := fetch_cases s
  · simp [fetchAndRun, hdec]
  · simp [h] at hd

end Sys2Proof.Machine

/-! ## The obligations -/

namespace Sys2Proof.Proofs

open Sys2Proof.Machine Sys2Proof.Claims

/-- Settles O36: every effect of an instruction keeps the invariant, and the canonical form by itself. -/
theorem stepKeepsInvariant : Obligations.StepKeepsInvariant :=
  ⟨fun _ _ hs h => step_keeps (K := Inv) (fun _ _ => id) (fun _ _ => id) Effect.inv h hs,
    fun _ _ hs h => step_keeps (K := (·.mem.wf)) (fun _ _ => id) (fun _ _ => id) Effect.mem_wf h hs⟩

/-- Settles O7, by where a word's two bytes are read and written. -/
theorem wordsAreLittleEndianBytePairs : Obligations.WordsAreLittleEndianBytePairs := by
  intro m a v h
  refine ⟨joinBytes_toNat _ _, Memory.readWord_writeWord h a v, ?_, ?_, fun b => Memory.read_writeWord_other h a v⟩
  · rw [Memory.read_writeWord_low h, lowByte_toNat]
  · rw [Memory.read_writeWord_high h, highByte_toNat]

/-- Settles O30: a storing form writes one byte at its effective address, and BRK and the other effects write none. -/
theorem memoryChangesOnlyAtTheStoredByte : Obligations.MemoryChangesOnlyAtTheStoredByte := by
  intro i s t hw h
  refine ⟨fun hs ea he b hb => ?_, fun h1 h2 b => ?_⟩
  · obtain ⟨ea', t', he', ht', -, -, hmem⟩ := exec_stores hs s
    obtain rfl : ea = ea' := by simpa [he] using he'
    obtain rfl : t = t' := by simpa [h] using ht'
    rw [State.read, hmem, Memory.read_write_other hw hb.symm]
    rfl
  · obtain ⟨-, hbrk⟩ | ⟨-, q, heff, hq⟩ := exec_cases i s
    · obtain rfl : t = s.atOperand.halt := by simpa [h] using hbrk
      rfl
    · obtain rfl : t = q.setPc (s.pc + BitVec.ofNat 16 i.length) := by simpa [h] using hq
      exact congrArg (·.read b) (heff.mem_of_not_stores (not_or.mpr ⟨h1, h2⟩))

/-- Settles O42: after a storing instruction memory reads as seen, and the next fetch decodes the bytes it reads. -/
theorem storeIntoNextInstructionIsSeen : Obligations.StoreIntoNextInstructionIsSeen := by
  intro s i rest hw hrun hdec hs
  obtain ⟨ea, t, he, ht, hpc, hstatus, hmem⟩ := exec_stores hs s
  have hstep : step t = fetchAndRun exec t := step_of_running (hstatus.trans hrun)
  have hseen (a : Addr) : t.read a = if a = ea then storedByte i s ea else s.read a := by
    rw [State.read, hmem, Memory.read_write hw]
    simp only [eq_comm (a := ea)]
    rfl
  refine ⟨ea, t, he, ?_, hpc, hseen, ?_, ?_⟩
  · rw [step_of_running hrun, fetchAndRun_of_decode hdec, ht]
  · intro j rest' hj
    simp only [← hseen] at hj
    rw [hstep, fetchAndRun_of_decode hj]
  · intro hnone
    simp only [← hseen] at hnone ⊢
    exact ⟨_, hstep.trans (fetchAndRun_of_unlisted hnone)⟩

/-- Settles O6: a read sees the byte written there, and every other byte as it was. -/
theorem byteWriteSetsThatByteAlone : Obligations.ByteWriteSetsThatByteAlone := by
  intro m a b v h
  simp only [Memory.read_write h, eq_comm (a := a)]

end Sys2Proof.Proofs
end

section
/-! Proofs for spec/30_encoding.md: what the decoder answers, with and without EOR, and the spec's step over this hardware's
ROM. -/

namespace Sys2Proof

/-! ## The ROM with and without EOR -/

/-- The opcodes of the eight EOR rows (30_encoding.md R53). -/
def eorBytes : List Byte := [0x41, 0x45, 0x49, 0x4D, 0x51, 0x55, 0x59, 0x5D]

/-- The EOR rows of the ROM are those of the eight EOR bytes. -/
theorem rom_row_eor {d : Descriptor} (h : d ∈ opcodeRom) : d.mnemonic = .EOR ↔ d.opcode ∈ eorBytes := by
  have key : ∀ d ∈ opcodeRom, (d.mnemonic = .EOR ↔ d.opcode ∈ eorBytes) := by decide +kernel
  exact key d h

/-- Without EOR the eight EOR bytes have no row, and every other byte has the row it has with EOR (30_encoding.md R53). -/
theorem romLookup_without_eor_byte (op : Byte) :
    romLookup (opcodeRomWith false) op = if op ∈ eorBytes then none else romLookup opcodeRom op := by
  rw [romLookup_without_eor]
  cases hd : romLookup opcodeRom op with
  | none => simp
  | some d =>
    obtain ⟨hmem, rfl⟩ := romLookup_some hd
    simp [Option.filter_some, ← rom_row_eor hmem]

/-- The rows of either ROM are those of this hardware's, less the EOR rows where EOR is absent. -/
theorem romLookup_opcodeRomWith {hasEor : Bool} {op : Byte} {d : Descriptor} :
    romLookup (opcodeRomWith hasEor) op = some d ↔
      romLookup opcodeRom op = some d ∧ (hasEor || d.mnemonic != .EOR) = true := by
  cases hasEor with
  | true => exact (and_iff_left rfl).symm
  | false => rw [romLookup_without_eor, Option.filter_eq_some_iff, Bool.false_or]

/-! ## The bytes without a row -/

theorem romLookup_eq_none {rom : List Descriptor} {op : Byte} :
    romLookup rom op = none ↔ op ∉ rom.map (·.opcode) := by
  simp [romLookup]

/-- A list of bytes as one number, in which bit `b` is set for every byte `b` of the list. Two lists are compared through it
at one bit operation a byte, where membership would go through a whole list for each of the 256 bytes. -/
def byteMask : List Byte → Nat
  | [] => 0
  | b :: bs => 2 ^ b.toNat ||| byteMask bs

theorem testBit_byteMask (bs : List Byte) (op : Byte) : (byteMask bs).testBit op.toNat = decide (op ∈ bs) := by
  induction bs with
  | nil => simp [byteMask]
  | cons b bs ih => simp [byteMask, ih, Nat.testBit_two_pow, BitVec.toNat_inj, eq_comm]

/-- Lists whose masks differ in all 256 bits are complements. -/
theorem not_mem_iff_mem_of_byteMask {bs cs : List Byte} (h : byteMask bs ^^^ byteMask cs = 2 ^ 256 - 1) (op : Byte) :
    op ∉ bs ↔ op ∈ cs := by
  have hbit := congrArg (·.testBit op.toNat) h
  simp only [Nat.testBit_xor, testBit_byteMask, Nat.testBit_two_pow_sub_one, decide_eq_true op.isLt] at hbit
  by_cases hb : op ∈ bs <;> simpa [hb] using hbit

/-! ## What the decoder answers -/

/-- Decode answers an instruction exactly when the first byte has a row, the bytes after it an operand of the row's mode,
and the row's mnemonic a form with that operand (30_encoding.md R48, R54). -/
theorem decodeWith_eq_ok {rom : List Descriptor} {bytes rest : List Byte} {i : Instr} :
    decodeWith rom bytes = .ok (i, rest) ↔
      ∃ op tail d o, bytes = op :: tail ∧ romLookup rom op = some d ∧ takeOperand d.mode tail = some (o, rest) ∧
        Instr.ofForm d.mnemonic o = some i := by
  constructor
  · intro h
    cases bytes with
    | nil => cases h
    | cons op tail =>
      simp only [decodeWith] at h
      split at h
      · cases h
      next d hd =>
      split at h
      · cases h
      next o rest' ho =>
      split at h
      · cases h
      next j hj =>
      cases h
      exact ⟨op, tail, d, o, rfl, hd, ho, hj⟩
  · rintro ⟨op, tail, d, o, rfl, hd, ho, hi⟩
    simp [decodeWith, hd, ho, hi]

/-- An instruction that a row's mnemonic and an operand of the row's mode name has the row's opcode. -/
theorem opcode_of_row {op : Byte} {d : Descriptor} {o : Operand} {i : Instr} (hd : romLookup opcodeRom op = some d)
    (ho : o.mode = d.mode) (hi : Instr.ofForm d.mnemonic o = some i) : i.opcode = op := by
  obtain ⟨hmem, hop⟩ := romLookup_some hd
  obtain ⟨hm, rfl⟩ := Instr.ofForm_eq hi
  obtain ⟨e, he, heop, hem, -, hemode, -⟩ := romLookup_opcode i
  obtain rfl := rom_row_unique (romLookup_some he).1 hmem (hem.trans hm) (hemode.trans ho)
  exact heop.symm.trans hop

theorem decodeWith_encode {hasEor : Bool} {i : Instr} (h : i.wellFormedWith hasEor = true) (rest : List Byte) :
    decodeWith (opcodeRomWith hasEor) (encode i ++ rest) = .ok (i, rest) := by
  obtain ⟨d, hd, -, hm, -, hmode, -⟩ := romLookup_opcode i
  refine decodeWith_eq_ok.mpr ⟨i.opcode, i.operand.bytes ++ rest, d, i.operand, rfl, ?_, ?_, ?_⟩
  · exact romLookup_opcodeRomWith.mpr ⟨hd, hm ▸ h⟩
  · rw [hmode]
    exact takeOperand_bytes i.operand rest
  · rw [hm]
    exact (Laws.RomRow.all i).2

/-- This hardware has EOR (D2), so every instruction is well formed. -/
theorem decode_encode (i : Instr) (rest : List Byte) : decode (encode i ++ rest) = .ok (i, rest) :=
  decodeWith_encode (hasEor := true) rfl rest

theorem decode_of_unlisted {op : Byte} (h : romLookup opcodeRom op = none) (rest : List Byte) :
    decode (op :: rest) = .error (.unrecognizedOpcode op) := by
  simp [decode, decodeWith, h]

end Sys2Proof

namespace Sys2Proof.Machine

/-! ## The spec's step over a ROM -/

/-- A row's family is Halt for BRK alone (30_encoding.md R49). -/
theorem family_eq_halt {m : Mnemonic} : m.family = .halt ↔ m = .BRK := by cases m <;> decide

/-- The spec's step reads the ROM at the fetched byte alone (42_execution_loop.md R93). -/
theorem romRunOne_congr {rom rom' : List Descriptor} {s : State}
    (h : romLookup rom (s.read s.pc) = romLookup rom' (s.read s.pc)) : romRunOne rom s = romRunOne rom' s := by
  simp only [romRunOne, h]

theorem romRunOne_of_unlisted {rom : List Descriptor} {s : State} (h : romLookup rom (s.read s.pc) = none) :
    romRunOne rom s = raise (.unrecognizedOpcode (s.read s.pc) s.pc) s := by
  simp [romRunOne, h]

/-- Fetching, decoding and executing one instruction is the spec's step over this hardware's ROM (42_execution_loop.md
R93, R94). -/
theorem fetchAndRun_eq_romRunOne (s : State) : fetchAndRun exec s = romRunOne opcodeRom s := by
  obtain ⟨hnone, -⟩ | ⟨d, i, hd, hi, hdec⟩ := fetch_cases s
  · rw [fetchAndRun_of_unlisted hnone, romRunOne_of_unlisted hnone]
  obtain ⟨j, hj, hop, hm, ho, -, hlen, hfam⟩ :=
    rom_row_form hd (s.atOperand.read s.atOperand.pc) (s.atOperand.read (s.atOperand.pc + 1))
  obtain rfl : i = j := Option.some.inj (hi.symm.trans hj)
  have hrun : fetchAndRun exec s = exec i s := by simp [fetchAndRun, hdec]
  by_cases hb : i.mnemonic = .BRK
  · have hhalt : d.family = .halt := hfam.trans (family_eq_halt.mpr hb)
    obtain rfl := eq_brk hb
    simp only [hrun, romRunOne, hd, if_pos hhalt]
    rfl
  · have hgo : d.family ≠ .halt := fun h => hb (family_eq_halt.mp (hfam.symm.trans h))
    have hopcode : d.opcode = i.opcode := (romLookup_some hd).2.trans hop.symm
    simp only [hrun, romRunOne, hd, if_neg hgo, exec_eq_execute hb, runHandler, hm, ho, hlen, hopcode, fetchOperand]

theorem step_eq_romStep (s : State) : step s = romStep opcodeRom s := by
  rw [step, romStep, funext fetchAndRun_eq_romRunOne]

theorem romStep_of_running {s : State} (h : s.status = .running) (rom : List Descriptor) :
    romStep rom s = romRunOne rom s := by
  simp [romStep, stepWith, h]

end Sys2Proof.Machine

/-! ## The obligations -/

namespace Sys2Proof.Proofs

open Sys2Proof.Machine

/-- Settles O2: the instruction's row gives back its mode and its mnemonic, and its own bytes its operand. -/
theorem decodeOfEncodeIsTheInstruction : Obligations.DecodeOfEncodeIsTheInstruction :=
  fun _ _ rest h => decodeWith_encode h rest

/-- Settles O3: the row of the first byte fixes the opcode, and the operand taken the bytes after it. -/
theorem decodedBytesAreTheEncoding : Obligations.DecodedBytesAreTheEncoding := by
  intro hasEor bytes i rest h
  obtain ⟨op, tail, d, o, rfl, hd, ho, hi⟩ := decodeWith_eq_ok.mp h
  obtain ⟨hrow, heor⟩ := romLookup_opcodeRomWith.mp hd
  obtain ⟨hmode, rfl⟩ := takeOperand_eq ho
  obtain rfl := opcode_of_row hrow hmode hi
  obtain ⟨hm, rfl⟩ := Instr.ofForm_eq hi
  exact ⟨rfl, by rwa [Instr.wellFormedWith, hm]⟩

/-- Settles O46: the step reads the ROM at the fetched byte alone, and there the two ROMs differ for the EOR bytes only. -/
theorem withoutEorItsBytesFault : Obligations.WithoutEorItsBytesFault := by
  unfold Obligations.WithoutEorItsBytesFault
  intro eor s hs
  have hrow := romLookup_without_eor_byte (s.read s.pc)
  rw [romStep_of_running hs]
  constructor
  · intro h
    exact ⟨_, romRunOne_of_unlisted (hrow.trans (if_pos h))⟩
  · intro h
    rw [step_eq_romStep, romStep_of_running hs, romRunOne_congr (hrow.trans (if_neg h))]

/-- Settles O1: the words are encodings, and the two bytes of R52 have no row. -/
theorem decodeReadsTheTablesWords : Obligations.DecodeReadsTheTablesWords :=
  ⟨decode_encode (.ldaImmediate 0x05) [], decode_encode (.staAbsolute 0x0200) [], decode_encode (.stxZeroPageY 0x10) [],
    decode_encode .tax [], decode_encode (.adcImmediate 0x50) [], decode_encode (.sbcIndirectY 0x20) [],
    decode_encode (.incAbsoluteX 0x1234) [], decode_encode .inx [0xEA], decode_encode .aslAccumulator [],
    decode_encode (.rorAbsoluteX 0x01FF) [], decode_encode (.eorIndirectX 0x20) [], decode_encode .brk [0x77],
    decode_of_unlisted rfl _, decode_of_unlisted rfl _⟩

/-- Settles O4, by going through the rows. -/
theorem romRowsAgreeWithModeLengthAndFamilyTables : Obligations.RomRowsAgreeWithModeLengthAndFamilyTables :=
  ⟨by decide +kernel, by decide +kernel, rfl, rfl⟩

/-- Settles O5: the bytes listed are the complement of the ROM's opcodes, and without EOR its bytes lose their rows. -/
theorem unrecognisedBytesAreTheListedOnes : Obligations.UnrecognisedBytesAreTheListedOnes := by
  unfold Obligations.UnrecognisedBytesAreTheListedOnes
  intro unlisted eor
  have hlisted (op : Byte) : romLookup opcodeRom op = none ↔ op ∈ unlisted :=
    romLookup_eq_none.trans (not_mem_iff_mem_of_byteMask (by decide +kernel) op)
  refine ⟨rfl, hlisted, fun op => ?_⟩
  rw [romLookup_without_eor_byte, List.mem_append, ← hlisted op]
  change _ ↔ _ ∨ op ∈ eorBytes
  by_cases h : op ∈ eorBytes <;> simp [h]

end Sys2Proof.Proofs
end

section
/-! Proofs for spec/40_addressing.md: the addresses of the modes as numbers, the users of a mode, and the operand an
instruction fetched at PC carries. -/

namespace Sys2Proof.Machine

/-! ## Addresses as numbers -/

@[simp] theorem zext16_toNat (b : Byte) : (zext16 b).toNat = b.toNat :=
  BitVec.toNat_setWidth_of_le (by decide)

/-- A sum of two bytes wraps inside the zero page (40_addressing.md R64, R65). -/
theorem zext16_add_toNat (b c : Byte) : (zext16 (b + c)).toNat = (b.toNat + c.toNat) % 256 := by
  rw [zext16_toNat, BitVec.toNat_add]

/-- A byte is added to an address unsigned, modulo 2^16 (40_addressing.md R67, R68, R73). -/
theorem add_zext16_toNat (a : Addr) (b : Byte) : (a + zext16 b).toNat = (a.toNat + b.toNat) % 65536 := by
  rw [BitVec.toNat_add, zext16_toNat]

theorem zext16_eq_ofNat (b : Byte) : zext16 b = BitVec.ofNat 16 b.toNat :=
  (BitVec.ofNat_toNat 16 b).symm

/-- Both bytes of a pointer lie in the zero page (40_addressing.md R70, D6). -/
theorem State.zpWord_toNat (s : State) (t : Byte) :
    (s.zpWord t).toNat =
      (s.read (BitVec.ofNat 16 ((t.toNat + 1) % 256))).toNat * 256 + (s.read (BitVec.ofNat 16 t.toNat)).toNat := by
  rw [State.zpWord, joinBytes_toNat, zext16_eq_ofNat, zext16_eq_ofNat, BitVec.toNat_add]
  rfl

/-! ## The users of a mode -/

theorem mem_users_iff_accepts {m : Mnemonic} {mode : AddrMode} : m ∈ mode.users ↔ m.accepts mode = true :=
  List.contains_iff_mem.symm

/-- The mnemonics a mode's instructions have are its users (40_addressing.md R78). -/
theorem mnemonic_mem_users {i : Instr} {mode : AddrMode} (h : i.mode = mode) : i.mnemonic ∈ mode.users :=
  h ▸ mem_users_iff_accepts.mpr (accepts_mode i)

/-- Every user of a mode has an instruction in that mode (40_addressing.md R78). -/
theorem exists_instr_of_mem_users {m : Mnemonic} {mode : AddrMode} (h : m ∈ mode.users) :
    ∃ i : Instr, i.mnemonic = m ∧ i.mode = mode := by
  have hacc : m.accepts (mode.operandOf 0 0).mode = true := by
    rw [AddrMode.operandOf_mode]
    exact mem_users_iff_accepts.mp h
  obtain ⟨i, hi⟩ := Instr.ofForm_of_accepts hacc
  obtain ⟨hm, ho⟩ := Instr.ofForm_eq hi
  exact ⟨i, hm, by rw [Instr.mode, ho, AddrMode.operandOf_mode]⟩

/-- A user of Implicit has no other mode (40_addressing.md R74, R78). -/
theorem mode_eq_implicit_iff {i : Instr} : i.mode = .implicit ↔ i.mnemonic ∈ AddrMode.implicit.users := by
  refine ⟨mnemonic_mem_users, fun h => ?_⟩
  have alone (mode : AddrMode) : (∃ m ∈ AddrMode.implicit.users, m ∈ mode.users) → mode = .implicit := by
    cases mode <;> decide
  exact alone i.mode ⟨_, h, mnemonic_mem_users rfl⟩

/-! ## The operand of an instruction fetched at PC -/

/-- With PC past the opcode, a mode's operand is made of the two bytes after the opcode (40_addressing.md R59). -/
theorem fetchOperand_atOperand (mode : AddrMode) (s : State) :
    fetchOperand mode s.atOperand = mode.operandOf (s.read (s.pc + 1)) (s.read (s.pc + 2)) := by
  have hpc : s.pc + 1 + 1 = s.pc + 2 := by bv_omega
  rw [fetchOperand, State.atOperand_pc, hpc]
  rfl

/-- A decoded instruction carries the operand its mode makes of the bytes after the opcode (30_encoding.md R54). -/
theorem operand_of_decode {op b1 b2 : Byte} {i : Instr} {rest : List Byte} (h : decode [op, b1, b2] = .ok (i, rest)) :
    i.operand = i.mode.operandOf b1 b2 := by
  obtain ⟨-, hnone⟩ | ⟨d, j, rest', -, hj, hok⟩ := decode_three op b1 b2
  · cases h.symm.trans hnone
  · obtain ⟨rfl, -⟩ : i = j ∧ rest = rest' := by simpa using h.symm.trans hok
    obtain ⟨-, ho⟩ := Instr.ofForm_eq hj
    rw [Instr.mode, ho, AddrMode.operandOf_mode]

/-- The operand byte of a mode other than Accumulator is the byte at its address; Immediate's is the byte at PC itself
(40_addressing.md R62, R77). -/
theorem operandByte_fetchOperand {mode : AddrMode} (h : mode ≠ .accumulator) (s : State) :
    operandByte (fetchOperand mode s) s = (resolveAt mode s).map s.read := by
  cases mode with
  | accumulator => exact absurd rfl h
  | implicit | immediate | zeroPage | zeroPageX | zeroPageY | absolute | absoluteX | absoluteY | indirect |
    indirectX | indirectY | relative => rfl

end Sys2Proof.Machine

/-! ## The obligations -/

namespace Sys2Proof.Proofs

open Sys2Proof.Machine

/-- Settles O12: the decoder and the resolver make the operand of the same two bytes. -/
theorem carriedOperandIsTheOneAtPc : Obligations.CarriedOperandIsTheOneAtPc := by
  intro s i rest hdec
  have ho : i.operand = fetchOperand i.mode s.atOperand :=
    (operand_of_decode hdec).trans (fetchOperand_atOperand i.mode s).symm
  refine ⟨ho, congrArg (resolve · s.atOperand) ho, fun hacc => ?_⟩
  exact (congrArg (operandByte · s.atOperand) ho).trans (operandByte_fetchOperand hacc s.atOperand)

/-- Settles O8: indexed addresses are zero-extended 8-bit sums, and the lengths and users are the mode's. -/
theorem zeroPageModesWrapInTheZeroPage : Obligations.ZeroPageModesWrapInTheZeroPage := by
  refine ⟨fun s => ⟨_, rfl, zext16_toNat _⟩, fun s => ⟨_, rfl, zext16_add_toNat _ _⟩,
    fun s => ⟨_, rfl, zext16_add_toNat _ _⟩, fun i hi => ?_, fun i hi => ?_⟩
  · exact (by decide : ∀ mode ∈ [AddrMode.zeroPage, .zeroPageX, .zeroPageY], mode.length = 2) i.mode hi
  · simpa [AddrMode.users] using mnemonic_mem_users hi

/-- Settles O9: each address is PC or the operand word, or a byte added to one of them. -/
theorem wordModesAddModulo65536 : Obligations.WordModesAddModulo65536 := by
  intro s word
  have hword : (joinBytes (s.read (s.pc + 1)) (s.read s.pc)).toNat = word := joinBytes_toNat _ _
  have hindexed (r : Byte) :
      (joinBytes (s.read (s.pc + 1)) (s.read s.pc) + zext16 r).toNat = (word + r.toNat) % 65536 := by
    rw [add_zext16_toNat, hword]
  exact ⟨rfl, ⟨_, rfl, hword⟩, ⟨_, rfl, hindexed s.x⟩, ⟨_, rfl, hindexed s.y⟩, ⟨_, rfl, hword⟩,
    ⟨_, rfl, add_zext16_toNat _ _⟩⟩

/-- Settles O10, by the zero-page pointer that both modes read. -/
theorem indirectModesReadZeroPagePointers : Obligations.IndirectModesReadZeroPagePointers := by
  intro s zp tx ty
  have hword (t : Byte) : (s.zpWord t).toNat = zp (t.toNat + 1) * 256 + zp t.toNat := by
    rw [State.zpWord_toNat]
    simp only [zp, Nat.mod_eq_of_lt t.isLt]
  refine ⟨⟨_, rfl, ?_⟩, ⟨_, rfl, ?_⟩⟩
  · rw [hword, BitVec.toNat_add]
  · rw [add_zext16_toNat, hword]

/-- Settles O11, by the mode's length and its users. -/
theorem implicitAndAccumulatorHaveNoAddress : Obligations.ImplicitAndAccumulatorHaveNoAddress := by
  refine ⟨fun s => ⟨rfl, rfl⟩, fun s m => ⟨rfl, rfl⟩, fun i h => ?_, fun i => mode_eq_implicit_iff,
    fun i => mnemonic_mem_users, fun m => exists_instr_of_mem_users (mode := .accumulator)⟩
  exact h.elim (congrArg AddrMode.length) (congrArg AddrMode.length)

end Sys2Proof.Proofs
end

section
/-! Proofs for spec/41_flags_alu.md: what a write to a flag leaves alone, the adder's signed overflow, the instructions that write
C and V, and the ring of nine bits that the rotates turn. -/

namespace Sys2Proof.Machine

open Sys2Proof.Claims

/-! ## Writes to flags -/

/-- A write to one flag leaves the other flags and the reserved bits (R79). -/
theorem onlyFlags_setFlag (s : State) (f : Flag) (b : Bool) : OnlyFlags [f] s (s.setFlag f b) := by
  refine ⟨fun g hg => ?_, State.reserved_setFlag s f b⟩
  rw [State.flag_setFlag, if_neg (List.ne_of_not_mem_cons hg).symm]

/-- What `update_zero_and_negative(r)` makes of Z and N (R80). -/
theorem znOf_updateZN (s : State) (r : Byte) : ZNOf r (s.updateZN r) := by
  simp [ZNOf, State.flag_updateZN]

/-- An update of Z and N leaves the other flags and the reserved bits (R80). -/
theorem onlyFlags_updateZN (s : State) (r : Byte) : OnlyFlags [.Z, .N] s (s.updateZN r) := by
  refine ⟨fun g hg => ?_, State.reserved_updateZN s r⟩
  obtain ⟨hz, hn⟩ : g ≠ .Z ∧ g ≠ .N := by simpa using hg
  rw [State.flag_updateZN, if_neg hz, if_neg hn]

/-! ## The adder -/

/-- The adder's overflow bit, read as signed numbers: the sum leaves -128..127 (R85). -/
theorem add8_v_iff_signed (a b : Byte) (cin : Bool) :
    (add8 a b cin).v = true ↔ signed8 a + signed8 b + (cin.toNat : Int) < -128 ∨
      127 < signed8 a + signed8 b + (cin.toNat : Int) := by
  have ha := a.isLt
  have hb := b.isLt
  have hc := cin.toNat_le
  rw [add8_v, bitOf_seven, bitOf_seven, bitOf_seven, (add8_nat a b cin).1, signed8_eq, signed8_eq]
  generalize a.toNat = m at *
  generalize b.toNat = n at *
  generalize cin.toNat = c at *
  by_cases hm : 128 ≤ m <;> by_cases hn : 128 ≤ n <;> simp [hm, hn] <;> omega

/-! ## The instructions that write C and V -/

namespace Effect

variable {i : Instr} {q t : State}

/-- An effect of no adding or shifting mnemonic leaves C (R82). -/
theorem carry_kept (h : Effect i q t) (hi : i.mnemonic ∉ [.ADC, .SBC, .ASL, .LSR, .ROL, .ROR]) :
    t.flag .C = q.flag .C := by
  cases h with
  | toA | toX | toY | modify => simp [State.flag_updateZN]
  | store => rfl
  | sum r h => exact absurd (List.Sublist.subset (by decide) h) hi
  | shiftA f h => exact absurd (List.Sublist.subset (by decide) h) hi
  | shiftMem f ea h => exact absurd (List.Sublist.subset (by decide) h) hi

/-- An effect of no adding mnemonic leaves V (R82). -/
theorem overflow_kept (h : Effect i q t) (hi : i.mnemonic ∉ [.ADC, .SBC]) : t.flag .V = q.flag .V := by
  cases h with
  | toA | toX | toY | modify => simp [State.flag_updateZN]
  | store => rfl
  | sum r h => exact absurd h hi
  | shiftA => simp [flag_shiftedA]
  | shiftMem => simp [flag_shiftedMem]

end Effect

/-! ## The rotates -/

theorem getLsbD_bitByte (b : Bool) (k : Nat) : (bitByte b).getLsbD k = (decide (k = 0) && b) := by
  cases b <;> simp [bitByte, BitVec.getLsbD_one]

/-- ROL bit by bit (R87). -/
theorem shiftOf_rol8 (v : Byte) (cin : Bool) : ShiftOf .ROL v cin (rol8 v cin).1 (rol8 v cin).2 := by
  refine ⟨rfl, ?_, fun k hk => ?_⟩ <;>
    simp only [bitOf, rol8, BitVec.getLsbD_or, BitVec.getLsbD_shiftLeft, getLsbD_bitByte]
  · simp
  · simp [show k + 1 < 8 by omega]

/-- ROR bit by bit (R87). -/
theorem shiftOf_ror8 (v : Byte) (cin : Bool) : ShiftOf .ROR v cin (ror8 v cin).1 (ror8 v cin).2 := by
  refine ⟨rfl, ?_, fun k hk => ?_⟩ <;>
    simp only [bitOf, ror8, BitVec.getLsbD_or, BitVec.getLsbD_ushiftRight, BitVec.getLsbD_shiftLeft, getLsbD_bitByte]
  · simp
  · simp [hk, Nat.add_comm]

/-- The ring of a byte and a carry: the carry at place 0, bit k of the byte at place k + 1 (R87). -/
def ringBit (x : Byte × Bool) : Fin 9 → Bool := Fin.cons x.2 fun k : Fin 8 => bitOf x.1 k

theorem ringBit_injective : Function.Injective ringBit := by
  intro x y h
  obtain ⟨hcarry, hbits⟩ := Fin.cons_inj.mp h
  exact Prod.ext (BitVec.eq_of_getLsbD_eq fun k hk => congrFun hbits ⟨k, hk⟩) hcarry

/-- ROL moves every bit of the ring one place up. -/
theorem ringBit_rol8 (x : Byte × Bool) (k : Fin 9) : ringBit (rol8 x.1 x.2) k = ringBit x (k - 1) := by
  obtain ⟨hout, hin, hmid⟩ := shiftOf_rol8 x.1 x.2
  refine Fin.cases hout (Fin.cases hin fun j => ?_) k
  have hplace : ∀ j : Fin 7, j.succ.succ - 1 = j.castSucc.succ := by decide
  rw [hplace]
  exact hmid j j.isLt

/-- ROR moves every bit of the ring one place down. -/
theorem ringBit_ror8 (x : Byte × Bool) (k : Fin 9) : ringBit (ror8 x.1 x.2) k = ringBit x (k + 1) := by
  obtain ⟨hout, hin, hmid⟩ := shiftOf_ror8 x.1 x.2
  refine Fin.cases hout (Fin.lastCases hin fun j => ?_) k
  have hplace : ∀ j : Fin 7, j.castSucc.succ + 1 = j.succ.succ := by decide
  rw [hplace]
  exact hmid j j.isLt

/-- A ring that a turn by one place gives back holds one bit throughout (90_conflicts.md C1). -/
theorem ror8_eq_self_iff (x : Byte × Bool) : ror8 x.1 x.2 = x ↔ x = (0x00, false) ∨ x = (0xFF, true) := by
  refine ⟨fun h => ?_, ?_⟩
  · have hconst (k : Fin 9) : ringBit x k = x.2 := by
      induction k using Fin.induction with
      | zero => rfl
      | succ k ih => rw [← ih, ← Fin.coeSucc_eq_succ, ← ringBit_ror8, h]
    have hclear : ∀ k, ringBit (0x00, false) k = false := by decide
    have hfull : ∀ k, ringBit (0xFF, true) k = true := by decide
    obtain ⟨v, c⟩ := x
    cases c with
    | false => exact .inl (ringBit_injective (funext fun k => (hconst k).trans (hclear k).symm))
    | true => exact .inr (ringBit_injective (funext fun k => (hconst k).trans (hfull k).symm))
  · rintro (rfl | rfl) <;> decide

end Sys2Proof.Machine

/-! ## The obligations -/

namespace Sys2Proof.Proofs

open Sys2Proof.Machine

/-- Settles O15, by the signs of the operands and of the wrapped sum. -/
theorem adderGivesSumCarryAndSignedOverflow : Obligations.AdderGivesSumCarryAndSignedOverflow := by
  intro a b cin
  obtain ⟨hsum, hcarry⟩ := add8_nat a b cin
  exact ⟨hsum, by simp [hcarry], by simp [add8_v], add8_v_iff_signed a b cin⟩

/-- Settles O28: BRK writes no flag, and of the effects only the sum and the shifts write C, and only the sum V. -/
theorem onlyTheListedInstructionsWriteCarryAndOverflow : Obligations.OnlyTheListedInstructionsWriteCarryAndOverflow := by
  intro i s t h
  obtain ⟨-, hbrk⟩ | ⟨-, q, he, hq⟩ := exec_cases i s
  · obtain rfl : t = s.atOperand.halt := by simpa [h] using hbrk
    exact ⟨fun _ => rfl, fun _ => rfl⟩
  · obtain rfl : t = q.setPc (s.pc + BitVec.ofNat 16 i.length) := by simpa [h] using hq
    exact ⟨he.carry_kept, he.overflow_kept⟩

/-- Settles O13: the flag reads back, and a flag's bit is the one R16 gives it. -/
theorem settingAFlagChangesNoOtherBit : Obligations.SettingAFlagChangesNoOtherBit := by
  intro s f b
  have hset : (s.setFlag f b).flag f = b := by rw [State.flag_setFlag, if_pos rfl]
  exact ⟨⟨hset, onlyFlags_setFlag s f b, rfl⟩, rfl, rfl, rfl, rfl, rfl, rfl⟩

/-- Settles O14: an update of Z and N is two writes to flags. -/
theorem updateZeroAndNegativeWritesOnlyZN : Obligations.UpdateZeroAndNegativeWritesOnlyZN :=
  fun s r => ⟨znOf_updateZN s r, onlyFlags_updateZN s r, rfl⟩

/-- Settles O16: both are additions of bytes. -/
theorem incrementAndDecrementWrap : Obligations.IncrementAndDecrementWrap :=
  fun v => ⟨BitVec.toNat_add v 1, BitVec.toNat_add v 0xFF⟩

/-- Settles O17: each is the library's operation on bit vectors. -/
theorem logicOperationsActBitByBit : Obligations.LogicOperationsActBitByBit :=
  fun _ _ _ _ => ⟨BitVec.getLsbD_and, BitVec.getLsbD_or, BitVec.getLsbD_xor⟩

/-- Settles O18, by where each rotate takes the places of the ring. -/
theorem rotatesTurnANineBitRing : Obligations.RotatesTurnANineBitRing := by
  unfold Obligations.RotatesTurnANineBitRing
  intro rol ror eight x
  have hrol (y : Byte × Bool) : ringBit (rol y) = fun k => ringBit y (k - 1) := funext (ringBit_rol8 y)
  have hror (y : Byte × Bool) : ringBit (ror y) = fun k => ringBit y (k + 1) := funext (ringBit_ror8 y)
  have height : eight x = ror x := by
    refine ringBit_injective (funext fun k => ?_)
    simp only [eight, hrol, hror]
    congr 1
    decide +revert
  refine ⟨?_, height, ?_, ?_⟩
  · rw [height]
    exact ringBit_injective (by simp [hrol, hror])
  · exact ringBit_injective (by simp [hrol, hror])
  · rw [height]
    exact ror8_eq_self_iff x

end Sys2Proof.Proofs
end

section
/-! Proofs for spec/42_execution_loop.md: where an instruction leaves PC and the status, a step as the instruction at PC, and a
run under fuel as a sequence of steps. -/

namespace Sys2Proof.Machine

/-! ## One instruction -/

/-- Every instruction completes, and PC is then the address of the next opcode; only BRK changes the status
(42_execution_loop.md R93, R95, R98). -/
theorem exec_next (i : Instr) (s : State) : ∃ t, exec i s = .next t ∧ t.pc = s.pc + BitVec.ofNat 16 i.length ∧
    t.status = (if i = .brk then .halted else s.status) ∧ t.freeCount = s.freeCount := by
  obtain ⟨rfl, hbrk⟩ | ⟨hb, q, he, hq⟩ := exec_cases i s
  · exact ⟨_, hbrk, rfl, rfl, rfl⟩
  · obtain ⟨-, -, hstatus, hcount⟩ := he.rest
    have hne : i ≠ .brk := fun h => hb (congrArg Instr.mnemonic h)
    exact ⟨_, hq, rfl, by rw [if_neg hne]; exact hstatus, hcount⟩

theorem exec_status {i : Instr} {s t : State} (h : exec i s = .next t) :
    t.status = if i = .brk then .halted else s.status := by
  obtain ⟨t', ht', -, hstatus, -⟩ := exec_next i s
  obtain rfl : t = t' := by simpa [h] using ht'
  exact hstatus

/-- BRK alone has the opcode 0x00: that byte has one row (42_execution_loop.md R98). -/
theorem opcode_eq_zero_iff {i : Instr} : i.opcode = 0x00 ↔ i = .brk := by
  refine ⟨fun h => ?_, fun h => h ▸ rfl⟩
  obtain ⟨d, hd, -, hm, -⟩ := romLookup_opcode i
  obtain ⟨e, he, -, hbrk, -⟩ := romLookup_opcode .brk
  obtain rfl : d = e := Option.some.inj (hd.symm.trans (h ▸ he))
  exact eq_brk (hm.symm.trans hbrk)

/-! ## One step -/

/-- A step of a core in a run, or at its start, fetches with the status Running (42_execution_loop.md R92, R93; log 1). -/
theorem step_of_running_or_ready {s : State} (h : s.status = .running ∨ s.status = .ready) :
    step s = fetchAndRun exec (s.setStatus .running) := by
  obtain hrun | hready := h
  · rw [step_of_running hrun, ← hrun]
    rfl
  · simp [step, stepWith, hready]

theorem step_of_halted {s : State} (h : s.status = .halted) : step s = .next s := by
  simp [step, stepWith, h]

/-- After a step from Running or Ready the status is Halted where 0x00 was fetched, and else Running
(42_execution_loop.md R91, R98). -/
theorem step_status {s t : State} (hs : s.status = .running ∨ s.status = .ready) (h : step s = .next t) :
    t.status = if s.read s.pc = 0x00 then .halted else .running := by
  obtain ⟨hhalted, -⟩ | ⟨-, i, hop, hi⟩ := step_next h
  · simp [hhalted] at hs
  · rw [exec_status hi, ← hop]
    simp only [opcode_eq_zero_iff, State.setStatus_status]

/-- In a run, or halted at the end of one. -/
def State.Begun (s : State) : Prop := s.status = .running ∨ s.status = .halted

theorem begun_setStatus_running (s : State) : (s.setStatus .running).Begun := .inl rfl

/-- A step keeps a run begun: it goes on, or it has halted (42_execution_loop.md R91). -/
theorem step_begun {s t : State} (hs : s.Begun) (h : step s = .next t) : t.Begun := by
  obtain hrun | hhalted := hs
  · have hstatus := step_status (.inl hrun) h
    split at hstatus
    · exact .inr hstatus
    · exact .inl hstatus
  · obtain rfl : t = s := by simpa [step_of_halted hhalted] using h.symm
    exact .inr hhalted

/-! ## Many steps -/

section
variable {M : Host.Core} {k : Nat} {s : M.State}

theorem coreRun_succ_of_next {t : M.State} (h : M.step s = .next t) : M.run (k + 1) s = M.run k t := by
  rw [Host.Core.run, h]

theorem coreRun_succ_of_fault {f : M.Fault} (h : M.step s = .fault f) : M.run (k + 1) s = .fault f := by
  rw [Host.Core.run, h]

theorem coreRun_succ_of_refused {r : M.Refusal} (h : M.step s = .refused r) : M.run (k + 1) s = .refused r := by
  rw [Host.Core.run, h]

theorem coreRun_succ_eq_next {t : M.State} :
    M.run (k + 1) s = .next t ↔ ∃ u, M.step s = .next u ∧ M.run k u = .next t := by
  rw [Host.Core.run]
  cases M.step s <;> simp

/-- Many steps in two parts. -/
theorem coreRun_add_eq_next {n : Nat} {t : M.State} :
    M.run (n + k) s = .next t ↔ ∃ u, M.run n s = .next u ∧ M.run k u = .next t := by
  induction n generalizing s with
  | zero => simp [Host.Core.run]
  | succ n ih =>
    rw [Nat.succ_add, coreRun_succ_eq_next]
    simp only [coreRun_succ_eq_next, ih]
    constructor
    · rintro ⟨v, hv, u, hu, ht⟩
      exact ⟨u, ⟨v, hv, hu⟩, ht⟩
    · rintro ⟨u, ⟨v, hv, hu⟩, ht⟩
      exact ⟨v, hv, u, hu, ht⟩

end

theorem coreRun_of_halted {s : State} (h : s.status = .halted) (n : Nat) : Host.Core.run core n s = .next s := by
  induction n with
  | zero => rfl
  | succ n ih => exact coreRun_succ_eq_next.mpr ⟨s, step_of_halted h, ih⟩

theorem coreRun_begun {n : Nat} {s t : State} (hs : s.Begun) (h : Host.Core.run core n s = .next t) : t.Begun := by
  induction n generalizing s with
  | zero => cases h; exact hs
  | succ n ih =>
    obtain ⟨u, hu, ht⟩ := coreRun_succ_eq_next.mp h
    exact ih (step_begun hs hu) ht

/-- Steps that end running began running and were running all along: a core that halts does not run again
(42_execution_loop.md R91; log 2). -/
theorem running_of_coreRun_running {n k : Nat} {s t : State} (hs : s.Begun)
    (h : Host.Core.run core (n + k) s = .next t) (ht : t.status = .running) :
    ∃ u : State, Host.Core.run core n s = .next u ∧ u.status = .running := by
  obtain ⟨u, hu, hut⟩ := coreRun_add_eq_next.mp h
  obtain hrun | hhalted := coreRun_begun hs hu
  · exact ⟨u, hu, hrun⟩
  · rw [coreRun_of_halted hhalted] at hut
    cases hut
    simp [hhalted] at ht

/-! ## A run under fuel -/

theorem runLoop_of_halted {s : State} (h : s.status = .halted) (fuel : Nat) : runLoop fuel s = .next s := by
  cases fuel <;> simp [runLoop, h]

/-- The loop stops where a halted core would idle, so it is its fuel of steps (42_execution_loop.md R91; log 2). -/
theorem runLoop_eq_coreRun {s : State} (hs : s.Begun) (fuel : Nat) : runLoop fuel s = Host.Core.run core fuel s := by
  induction fuel generalizing s with
  | zero => rfl
  | succ fuel ih =>
    obtain hrun | hhalted := hs
    · rw [runLoop, hrun]
      cases ht : step s with
      | next t => exact (ih (step_begun (.inl hrun) ht)).trans (coreRun_succ_of_next ht).symm
      | fault f => exact (coreRun_succ_of_fault (M := core) ht).symm
      | refused r => exact (coreRun_succ_of_refused (M := core) ht).symm
    · exact (runLoop_of_halted hhalted _).trans (coreRun_of_halted hhalted _).symm

/-- A run begins from Ready or Halted, without resetting anything (42_execution_loop.md R92). -/
theorem beginRun_next {s : State} (h : s.status = .ready ∨ s.status = .halted) :
    beginRun s = .next (s.setStatus .running) := by
  obtain h | h := h <;> simp [beginRun, h]

theorem run_eq_coreRun {s : State} (h : s.status = .ready ∨ s.status = .halted) (fuel : Nat) :
    run fuel s = Host.Core.run core fuel (s.setStatus .running) := by
  rw [run, beginRun_next h]
  exact runLoop_eq_coreRun (begun_setStatus_running s) fuel

/-- Only from Ready or Halted does a run return normally (42_execution_loop.md R92). -/
theorem status_of_run_next {fuel : Nat} {s t : State} (h : run fuel s = .next t) :
    s.status = .ready ∨ s.status = .halted := by
  cases hs : s.status with
  | ready => exact .inl rfl
  | halted => exact .inr rfl
  | running => simp [run, beginRun, hs] at h
  | faulted r => simp [run, beginRun, hs] at h

end Sys2Proof.Machine

/-! ## The obligations -/

namespace Sys2Proof.Proofs

open Sys2Proof.Machine

/-- Settles O27: PC moves by the instruction's length, which is that of its encoding. -/
theorem everyInstructionCompletesAtTheNextOpcode : Obligations.EveryInstructionCompletesAtTheNextOpcode := by
  intro i s
  obtain ⟨t, ht, hpc, hrest⟩ := exec_next i s
  refine ⟨t, ht, ?_, hrest⟩
  rw [hpc, encode_length, BitVec.toNat_add, BitVec.toNat_ofNat, Nat.add_mod_mod]

/-- Settles O35: fetching, decoding and executing is the spec's step over this hardware's ROM, in every status. -/
theorem stepRefinesTheSpecsLoop : Obligations.StepRefinesTheSpecsLoop := step_eq_romStep

/-- Settles O38: the fetched byte is the opcode of the instruction run, and BRK alone has 0x00. -/
theorem haltsExactlyAtOpcodeZero : Obligations.HaltsExactlyAtOpcodeZero := by
  intro s t hs h
  rw [step_status hs h]
  by_cases hzero : s.read s.pc = 0x00 <;> simp [hzero]

/-- Settles O40: the loop is its fuel of steps, and a halted core idles. -/
theorem runReturnsHaltedOrOutOfFuel : Obligations.RunReturnsHaltedOrOutOfFuel := by
  refine ⟨fun fuel s hs => run_eq_coreRun hs fuel, fun fuel s t h => ?_⟩
  have hs := status_of_run_next h
  have hcore := (run_eq_coreRun hs fuel).symm.trans h
  have hbegun := begun_setStatus_running s
  refine ⟨hs, hcore, (coreRun_begun hbegun hcore).symm, fun ht n hn => ?_, fun ht more => ?_⟩
  · obtain ⟨k, rfl⟩ := Nat.exists_eq_add_of_le hn
    exact running_of_coreRun_running hbegun hcore ht
  · rw [run_eq_coreRun hs]
    exact coreRun_add_eq_next.mpr ⟨t, hcore, coreRun_of_halted ht more⟩

/-- Settles O26: BRK moves PC past its opcode and writes the status. -/
theorem brkHaltsAndChangesNothingElse : Obligations.BrkHaltsAndChangesNothingElse :=
  fun s => ⟨s.atOperand.halt, rfl, rfl, rfl, rfl, rfl, rfl, rfl, rfl, fun _ => rfl⟩

/-- Settles O34: the fetch reads memory at PC, which the start of a run leaves alone. -/
theorem stepRunsTheDecodedInstruction : Obligations.StepRunsTheDecodedInstruction := by
  intro s i rest hs hdec
  rw [step_of_running_or_ready hs]
  exact fetchAndRun_of_decode hdec

/-- Settles O41, in each status. -/
theorem runBeginsFromReadyOrHaltedOnly : Obligations.RunBeginsFromReadyOrHaltedOnly := by
  intro s
  exact ⟨beginRun_next, fun h => by simp [beginRun, h], fun r h => by simp [beginRun, h]⟩

end Sys2Proof.Proofs
end

section
/-! Proofs for spec/43_load_store.md: a load moves its operand byte into one register, a store moves one register into one byte
of memory. -/

namespace Sys2Proof.Machine

/-! ## What a load and a store make of the state -/

/-- Every instruction that reads an operand has an operand byte; its mnemonic is one of those with Immediate mode
(40_addressing.md R77, R78). -/
theorem operandByte_of_reads {i : Instr} (h : i.mnemonic ∈ AddrMode.immediate.users) (s : State) :
    ∃ m, operandByte i.operand s = some m :=
  operandByte_some (mode_ne_implicit ((by decide : ∀ m ∈ AddrMode.immediate.users,
    m ∉ [Mnemonic.TAX, .TXA, .TAY, .TYA, .INX, .DEX, .INY, .DEY, .BRK]) _ h)) s

/-- A load puts its operand byte into its register, sets Z and N from it, and moves PC (43_load_store.md R100 to R102). -/
theorem exec_load {i : Instr} (h : i.mnemonic ∈ [.LDA, .LDX, .LDY]) (s : State) :
    ∃ m pc, operandByte i.operand s.atOperand = some m ∧
      exec i s = .next (((((s.setA (if i.mnemonic = .LDA then m else s.a)).setX (if i.mnemonic = .LDX then m else s.x)).setY
        (if i.mnemonic = .LDY then m else s.y)).updateZN m).setPc pc) := by
  obtain ⟨m, hm⟩ := operandByte_of_reads (List.Sublist.subset (by decide) h) s.atOperand
  refine ⟨m, _, hm, exec_of_execute (ne_of_mem_of_not_mem h (by decide))
    (t := (((s.atOperand.setA _).setX _).setY _).updateZN m) ?_⟩
  obtain hi | hi | hi : i.mnemonic = .LDA ∨ i.mnemonic = .LDX ∨ i.mnemonic = .LDY := by simpa using h
  all_goals rw [hi]
  · exact lda_next hm
  · exact ldx_next hm
  · exact ldy_next hm

/-- A store writes its register at its effective address, and moves PC (43_load_store.md R103 to R105). -/
theorem exec_store {i : Instr} (h : i.mnemonic ∈ [.STA, .STX, .STY]) (s : State) :
    ∃ ea pc, resolve i.operand s.atOperand = some ea ∧ exec i s = .next ((s.write ea
      (if i.mnemonic = .STA then s.a else if i.mnemonic = .STX then s.x else s.y)).setPc pc) := by
  obtain ⟨ea, he⟩ := resolve_of_stores (.inl (List.Sublist.subset (by decide) h)) s.atOperand
  refine ⟨ea, _, he, exec_of_execute (ne_of_mem_of_not_mem h (by decide)) (t := s.atOperand.write ea _) ?_⟩
  obtain hi | hi | hi : i.mnemonic = .STA ∨ i.mnemonic = .STX ∨ i.mnemonic = .STY := by simpa using h
  all_goals rw [hi]
  · exact sta_next he
  · exact stx_next he
  · exact sty_next he

end Sys2Proof.Machine

/-! ## The obligations -/

namespace Sys2Proof.Proofs

open Sys2Proof.Machine

/-- Settles O19: a load writes one register, Z and N, and a store writes one byte. -/
theorem loadsAndStoresMoveOneByte : Obligations.LoadsAndStoresMoveOneByte := by
  refine ⟨fun i s h => ?_, fun i s hw h => ?_⟩
  · obtain ⟨m, pc, hm, ht⟩ := exec_load h s
    exact ⟨m, _, hm, ht, rfl, rfl, rfl, znOf_updateZN _ m, onlyFlags_updateZN _ m, fun _ => rfl, rfl, rfl⟩
  · obtain ⟨ea, pc, he, ht⟩ := exec_store h s
    exact ⟨ea, _, he, ht, Memory.read_write_same hw _ _, fun b hb => Memory.read_write_other hw hb.symm _,
      rfl, rfl, rfl, rfl, rfl, rfl⟩

end Sys2Proof.Proofs
end

section
/-! Proofs for spec/44_transfer.md: a transfer copies one register into another, and sets Z and N from the copy. -/

namespace Sys2Proof.Machine

open Sys2Proof.Claims

/-! ## Instructions of one byte -/

/-- An instruction with no operand bytes ends where its handler does: PC has nothing left to be advanced over. -/
theorem exec_of_execute_of_length_one {i : Instr} {s t : State} (hb : i.mnemonic ≠ .BRK) (hlen : i.length = 1)
    (h : execute i.mnemonic ⟨i.opcode, s.pc⟩ i.operand s.atOperand = .next t) : exec i s = .next t := by
  have hpc : t.pc + BitVec.ofNat 16 (i.length - 1) = t.pc := by simp [hlen]
  rw [exec_of_execute hb h, hpc]
  rfl

/-! ## What a transfer makes of the state -/

theorem exec_tax (s : State) : exec .tax s = .next ((s.atOperand.setX s.a).updateZN s.a) :=
  exec_of_execute_of_length_one (by decide) rfl rfl

theorem exec_txa (s : State) : exec .txa s = .next ((s.atOperand.setA s.x).updateZN s.x) :=
  exec_of_execute_of_length_one (by decide) rfl rfl

theorem exec_tay (s : State) : exec .tay s = .next ((s.atOperand.setY s.a).updateZN s.a) :=
  exec_of_execute_of_length_one (by decide) rfl rfl

theorem exec_tya (s : State) : exec .tya s = .next ((s.atOperand.setA s.y).updateZN s.y) :=
  exec_of_execute_of_length_one (by decide) rfl rfl

/-- An update of Z and N, made where `u` agrees with `s` in P, memory, SP and the status, keeps of `s` all of these but Z and N
(R80). -/
theorem updateZN_frame {s u : State} (hp : u.p = s.p) (hmem : u.mem = s.mem) (hrest : RestKept s u) (r : Byte) :
    ZNOf r (u.updateZN r) ∧ OnlyFlags [.Z, .N] s (u.updateZN r) ∧ MemKept s (u.updateZN r) ∧
      RestKept s (u.updateZN r) := by
  refine ⟨znOf_updateZN u r, ?_, fun b => congrArg (Memory.read · b) hmem, hrest⟩
  obtain ⟨hflags, hreserved⟩ := onlyFlags_updateZN u r
  exact ⟨fun f hf => (hflags f hf).trans (State.flag_congr hp f), hp ▸ hreserved⟩

end Sys2Proof.Machine

/-! ## The obligations -/

namespace Sys2Proof.Proofs

open Sys2Proof.Machine

/-- Settles O20: a transfer writes its destination, then updates Z and N from it. -/
theorem transfersCopyARegister : Obligations.TransfersCopyARegister := by
  intro s
  refine ⟨⟨_, exec_tax s, rfl, rfl, rfl, ?_⟩, ⟨_, exec_txa s, rfl, rfl, rfl, ?_⟩,
    ⟨_, exec_tay s, rfl, rfl, rfl, ?_⟩, ⟨_, exec_tya s, rfl, rfl, rfl, ?_⟩⟩
  all_goals exact updateZN_frame rfl rfl ⟨rfl, rfl⟩ _

end Sys2Proof.Proofs
end

section
/-! Proofs for spec/45_arithmetic.md: ADC and SBC put the adder's outputs into A and four flags, and the adder subtracts when it
is given a byte's complement. -/

namespace Sys2Proof.Machine

open Sys2Proof.Claims

/-! ## The adder given a complement -/

section
variable (a m : Byte) (cin : Bool)

/-- The complement of a byte, read as a signed number (R11). -/
theorem signed8_not : signed8 (~~~m) = -signed8 m - 1 := by
  have hm := m.isLt
  rw [signed8_eq, signed8_eq, BitVec.toNat_not]
  split <;> split <;> omega

/-- Adding the complement of a byte subtracts the byte, and one more where the carry is clear (R112). -/
theorem add8_not_toNat :
    ((add8 a (~~~m) cin).r.toNat : Int) = ((a.toNat : Int) - m.toNat - (1 - cin.toNat)) % 256 := by
  have hm := m.isLt
  rw [(add8_nat a (~~~m) cin).1, BitVec.toNat_not]
  omega

/-- The carry out of that addition is set iff the subtraction needs no borrow (R112). -/
theorem add8_not_cout_iff :
    (add8 a (~~~m) cin).cout = true ↔ (m.toNat : Int) + (1 - cin.toNat) ≤ a.toNat := by
  have hm := m.isLt
  rw [(add8_nat a (~~~m) cin).2, BitVec.toNat_not, decide_eq_true_iff]
  omega

/-- Its overflow is that of the signed subtraction (R112, D7). -/
theorem add8_not_v_iff_signed :
    (add8 a (~~~m) cin).v = true ↔ signed8 a - signed8 m - (1 - (cin.toNat : Int)) < -128 ∨
      127 < signed8 a - signed8 m - (1 - (cin.toNat : Int)) := by
  have hdiff : signed8 a + signed8 (~~~m) + (cin.toNat : Int) = signed8 a - signed8 m - (1 - (cin.toNat : Int)) := by
    rw [signed8_not]
    ring
  rw [add8_v_iff_signed, hdiff]

end

/-! ## What ADC and SBC make of the state -/

/-- An instruction that reads an operand byte leaves what its handler makes of that byte, with PC moved (R77, R93). -/
theorem exec_of_reads {i : Instr} (h : i.mnemonic ∈ AddrMode.immediate.users) {make : State → Byte → State}
    (hmake : ∀ site q m, operandByte i.operand q = some m → execute i.mnemonic site i.operand q = .next (make q m))
    (s : State) :
    ∃ m pc, operandByte i.operand s.atOperand = some m ∧ exec i s = .next ((make s.atOperand m).setPc pc) := by
  obtain ⟨m, hm⟩ := operandByte_of_reads h s.atOperand
  exact ⟨m, _, hm, exec_of_execute (ne_of_mem_of_not_mem h (by decide)) (hmake _ _ m hm)⟩

/-- ADC puts the adder's outputs for A, its operand byte and the carry into A and the flags, and moves PC (R111). -/
theorem exec_adc {i : Instr} (h : i.mnemonic = .ADC) (s : State) :
    ∃ m pc, operandByte i.operand s.atOperand = some m ∧
      exec i s = .next ((s.addInto (add8 s.a m (s.flag .C))).setPc pc) :=
  exec_of_reads (make := fun q m => q.addInto (add8 q.a m (q.flag .C))) (h.symm ▸ by decide)
    (fun _ _ _ hm => h.symm ▸ adc_next hm) s

/-- SBC does the same with the complement of its operand byte (R112). -/
theorem exec_sbc {i : Instr} (h : i.mnemonic = .SBC) (s : State) :
    ∃ m pc, operandByte i.operand s.atOperand = some m ∧
      exec i s = .next ((s.addInto (add8 s.a (~~~m) (s.flag .C))).setPc pc) :=
  exec_of_reads (make := fun q m => q.addInto (add8 q.a (~~~m) (q.flag .C))) (h.symm ▸ by decide)
    (fun _ _ _ hm => h.symm ▸ sbc_next hm) s

/-- The adder's outputs leave the flags other than N, V, Z and C, and the reserved bits (R111). -/
theorem onlyFlags_addInto (s : State) (sum : AddResult) : OnlyFlags [.N, .V, .Z, .C] s (s.addInto sum) := by
  refine ⟨fun g hg => ?_, State.reserved_addInto s sum⟩
  obtain ⟨hn, hv, hz, hc⟩ : g ≠ .N ∧ g ≠ .V ∧ g ≠ .Z ∧ g ≠ .C := by simpa using hg
  rw [State.flag_addInto, if_neg hz, if_neg hn, if_neg hv, if_neg hc]

/-- What ADC and SBC do alike: Z and N are those of the new A, and only A, PC and four flags change (R111, R112). -/
theorem addInto_frame (s : State) (sum : AddResult) (pc : Addr) {t : State} (ht : t = (s.addInto sum).setPc pc) :
    ZNOf t.a t ∧ OnlyFlags [.N, .V, .Z, .C] s t ∧ t.x = s.x ∧ t.y = s.y ∧ MemKept s t ∧ RestKept s t := by
  subst ht
  exact ⟨znOf_updateZN _ sum.r, onlyFlags_addInto s sum, rfl, rfl, fun _ => rfl, rfl, rfl⟩

end Sys2Proof.Machine

/-! ## The obligations -/

namespace Sys2Proof.Proofs

open Sys2Proof.Machine

/-- Settles O21: the sum, the carry and the overflow are the adder's. -/
theorem adcAddsWithCarry : Obligations.AdcAddsWithCarry := by
  intro i s h
  obtain ⟨m, pc, hm, ht⟩ := exec_adc h s
  obtain ⟨hsum, hcarry⟩ := add8_nat s.a m (s.flag .C)
  refine ⟨m, _, hm, ht, hsum, ?_, ?_, addInto_frame s _ pc rfl⟩
  · simp [State.flag_addInto, hcarry]
  · simpa [State.flag_addInto] using add8_v_iff_signed s.a m (s.flag .C)

/-- Settles O22: the adder given the operand's complement subtracts. -/
theorem sbcSubtractsWithBorrow : Obligations.SbcSubtractsWithBorrow := by
  intro i s h
  obtain ⟨m, pc, hm, ht⟩ := exec_sbc h s
  refine ⟨m, _, hm, ht, add8_not_toNat s.a m (s.flag .C), ?_, ?_, addInto_frame s _ pc rfl⟩
  · simpa [State.flag_addInto] using add8_not_cout_iff s.a m (s.flag .C)
  · simpa [State.flag_addInto] using add8_not_v_iff_signed s.a m (s.flag .C)

end Sys2Proof.Proofs
end

section
/-! Proofs for spec/46_incdec.md: an increment or a decrement puts one byte, changed by 1, back where it was, and sets Z and N
from it. -/

namespace Sys2Proof.Machine

/-- Adding 0xFF modulo 2^8 subtracts 1 (41_flags_alu.md R86). -/
theorem dec8_eq_sub_one (v : Byte) : dec8 v = v - 1 := (BitVec.sub_eq_add_neg v 1).symm

/-! ## What an increment and a decrement make of the state -/

/-- INC and DEC write the changed byte at the effective address they read it from, and move PC (46_incdec.md R114, R115). -/
theorem exec_inc_or_dec {i : Instr} (h : i.mnemonic = .INC ∨ i.mnemonic = .DEC) (s : State) :
    ∃ ea v pc, resolve i.operand s.atOperand = some ea ∧
      v = (if i.mnemonic = .INC then s.read ea + 1 else s.read ea - 1) ∧
      exec i s = .next (((s.write ea v).updateZN v).setPc pc) := by
  have hmem : i.mnemonic ∈ [.INC, .DEC] := by simpa using h
  obtain ⟨ea, he⟩ := resolve_of_stores (.inl (List.Sublist.subset (by decide) hmem)) s.atOperand
  refine ⟨ea, _, _, he, rfl, exec_of_execute (ne_of_mem_of_not_mem hmem (by decide))
    (t := (s.atOperand.write ea _).updateZN _) ?_⟩
  obtain hi | hi := h
  all_goals rw [hi]
  · exact inc_next he
  · exact dec8_eq_sub_one (s.read ea) ▸ dec_next he

theorem exec_inx (s : State) : exec .inx s = .next ((s.atOperand.setX (s.x + 1)).updateZN (s.x + 1)) :=
  exec_of_execute_of_length_one (by decide) rfl rfl

theorem exec_dex (s : State) : exec .dex s = .next ((s.atOperand.setX (s.x - 1)).updateZN (s.x - 1)) :=
  dec8_eq_sub_one s.x ▸ exec_of_execute_of_length_one (by decide) rfl rfl

theorem exec_iny (s : State) : exec .iny s = .next ((s.atOperand.setY (s.y + 1)).updateZN (s.y + 1)) :=
  exec_of_execute_of_length_one (by decide) rfl rfl

theorem exec_dey (s : State) : exec .dey s = .next ((s.atOperand.setY (s.y - 1)).updateZN (s.y - 1)) :=
  dec8_eq_sub_one s.y ▸ exec_of_execute_of_length_one (by decide) rfl rfl

end Sys2Proof.Machine

/-! ## The obligations -/

namespace Sys2Proof.Proofs

open Sys2Proof.Machine Sys2Proof.Claims

/-- Settles O23: INC and DEC write one byte of memory, the others one register, and both then update Z and N from what was
written. -/
theorem incrementsAndDecrementsChangeOneByte : Obligations.IncrementsAndDecrementsChangeOneByte := by
  refine ⟨fun i s hw h => ?_, fun s => ?_⟩
  · obtain ⟨ea, v, pc, he, hv, ht⟩ := exec_inc_or_dec h s
    have hread : (((s.write ea v).updateZN v).setPc pc).read ea = v := Memory.read_write_same hw ea v
    have hzn : ZNOf v (((s.write ea v).updateZN v).setPc pc) := znOf_updateZN (s.write ea v) v
    exact ⟨ea, _, he, ht, hread.trans hv, fun b hb => Memory.read_write_other hw hb.symm v, rfl, rfl, rfl,
      hread.symm ▸ hzn, onlyFlags_updateZN (s.write ea v) v, rfl, rfl⟩
  · refine ⟨⟨_, exec_inx s, rfl, rfl, rfl, ?_⟩, ⟨_, exec_dex s, rfl, rfl, rfl, ?_⟩,
      ⟨_, exec_iny s, rfl, rfl, rfl, ?_⟩, ⟨_, exec_dey s, rfl, rfl, rfl, ?_⟩⟩
    all_goals exact updateZN_frame rfl rfl ⟨rfl, rfl⟩ _

end Sys2Proof.Proofs
end

section
/-! Proofs for spec/47_shift_rotate.md: a shift or rotate puts one byte, shifted by one, back where it was, and sets C from the
bit shifted out and Z and N from the result. -/

namespace Sys2Proof.Machine

open Sys2Proof.Claims

/-! ## The shifters -/

/-- ASL bit by bit (41_flags_alu.md R87). -/
theorem shiftOf_asl8 (v : Byte) (cin : Bool) : ShiftOf .ASL v cin (asl8 v cin).1 (asl8 v cin).2 := by
  refine ⟨rfl, ?_, fun k hk => ?_⟩ <;> simp only [bitOf, asl8, BitVec.getLsbD_shiftLeft]
  · simp
  · simp [show k + 1 < 8 by omega]

/-- LSR bit by bit (41_flags_alu.md R87). -/
theorem shiftOf_lsr8 (v : Byte) (cin : Bool) : ShiftOf .LSR v cin (lsr8 v cin).1 (lsr8 v cin).2 := by
  refine ⟨rfl, ?_, fun k _ => ?_⟩ <;> simp only [bitOf, lsr8, BitVec.getLsbD_ushiftRight]
  · simp
  · rw [Nat.add_comm]

/-- Every shifter shifts its byte by one bit, the carry in going where its mnemonic says (41_flags_alu.md R87). -/
theorem shiftOf_shifterOf {m : Mnemonic} (h : m ∈ [.ASL, .LSR, .ROL, .ROR]) (v : Byte) (cin : Bool) :
    ShiftOf m v cin (shifterOf m v cin).1 (shifterOf m v cin).2 := by
  obtain rfl | rfl | rfl | rfl : m = .ASL ∨ m = .LSR ∨ m = .ROL ∨ m = .ROR := by simpa using h
  · exact shiftOf_asl8 v cin
  · exact shiftOf_lsr8 v cin
  · exact shiftOf_rol8 v cin
  · exact shiftOf_ror8 v cin

/-! ## What a shift or rotate makes of the state -/

section

variable {i : Instr} (h : i.mnemonic ∈ [.ASL, .LSR, .ROL, .ROR])
include h

/-- In Accumulator mode the shifter works on A, and PC moves (R120). -/
theorem exec_shift_accumulator (hm : i.mode = .accumulator) (s : State) :
    ∃ pc, exec i s = .next ((shiftedA (shifterOf i.mnemonic) s).setPc pc) :=
  ⟨_, exec_of_execute (t := shiftedA _ s.atOperand) (ne_of_mem_of_not_mem h (by decide))
    ((execute_shift h _ _ _).trans (shiftForm_acc hm))⟩

/-- In every other mode it works on the byte at the effective address, and PC moves (R120). -/
theorem exec_shift_memory (hm : i.mode ≠ .accumulator) (s : State) :
    ∃ ea pc, resolve i.operand s.atOperand = some ea ∧
      exec i s = .next ((shiftedMem (shifterOf i.mnemonic) ea s).setPc pc) := by
  obtain ⟨ea, he⟩ := resolve_of_stores (.inr ⟨h, hm⟩) s.atOperand
  exact ⟨ea, _, he, exec_of_execute (t := shiftedMem _ ea s.atOperand) (ne_of_mem_of_not_mem h (by decide))
    ((execute_shift h _ _ _).trans (shiftForm_mem he))⟩

end

/-- What both forms make of P: C is the bit shifted out, Z and N are those of the result, and every other bit is as before
(R120). -/
theorem flags_of_shift {s t : State} {r : Byte} {c : Bool} (hp : t.p = ((s.setFlag .C c).updateZN r).p) :
    t.flag .C = c ∧ ZNOf r t ∧ OnlyFlags [.C, .Z, .N] s t := by
  have hflag (g : Flag) : t.flag g = ((s.setFlag .C c).updateZN r).flag g := State.flag_congr hp g
  obtain ⟨hzn, hzn4, hzn5⟩ := onlyFlags_updateZN (s.setFlag .C c) r
  obtain ⟨hcarry, hc4, hc5⟩ := onlyFlags_setFlag s .C c
  refine ⟨?_, ?_, fun g hg => ?_, ?_⟩
  · rw [hflag, hzn .C (by decide), State.flag_setFlag, if_pos rfl]
  · simpa only [ZNOf, hflag] using znOf_updateZN (s.setFlag .C c) r
  · obtain ⟨hc, hz⟩ : g ∉ [Flag.C] ∧ g ∉ [Flag.Z, .N] := by simpa using hg
    exact (hflag g).trans ((hzn g hz).trans (hcarry g hc))
  · rw [hp]
    exact ⟨hzn4.trans hc4, hzn5.trans hc5⟩

end Sys2Proof.Machine

/-! ## The obligations -/

namespace Sys2Proof.Proofs

open Sys2Proof.Machine Sys2Proof.Claims

/-- Settles O24: the shifter's byte goes back to A, or to the one byte of memory it was read from, and its outgoing bit to C. -/
theorem shiftsAndRotatesShiftOneByte : Obligations.ShiftsAndRotatesShiftOneByte := by
  refine ⟨fun i s h hm => ?_, fun i s hw h hm => ?_⟩
  · obtain ⟨pc, ht⟩ := exec_shift_accumulator h hm s
    obtain ⟨hc, hzn, hflags⟩ := flags_of_shift (s := s) (t := (shiftedA (shifterOf i.mnemonic) s).setPc pc) rfl
    exact ⟨_, ht, hc.symm ▸ shiftOf_shifterOf h s.a (s.flag .C), hzn, hflags, rfl, rfl, fun _ => rfl, rfl, rfl⟩
  · obtain ⟨ea, pc, he, ht⟩ := exec_shift_memory h hm s
    obtain ⟨hc, hzn, hflags⟩ := flags_of_shift (s := s) (t := (shiftedMem (shifterOf i.mnemonic) ea s).setPc pc) rfl
    have hread : ((shiftedMem (shifterOf i.mnemonic) ea s).setPc pc).read ea =
        (shifterOf i.mnemonic (s.read ea) (s.flag .C)).1 := Memory.read_write_same hw ea _
    refine ⟨ea, _, he, ht, ?_, hread.symm ▸ hzn, fun b hb => Memory.read_write_other hw hb.symm _, hflags,
      rfl, rfl, rfl, rfl, rfl⟩
    rw [hread, hc]
    exact shiftOf_shifterOf h (s.read ea) (s.flag .C)

end Sys2Proof.Proofs
end

section
/-! Proofs for spec/48_bitwise.md: AND, ORA and EOR put their operand byte, combined with A, into A, and set Z and N from it. -/

namespace Sys2Proof.Machine

/-- The operation of a bitwise mnemonic (48_bitwise.md R126 to R128). -/
def bitwiseOf (m : Mnemonic) (a b : Byte) : Byte :=
  if m = .AND then a &&& b else if m = .ORA then a ||| b else a ^^^ b

/-- A bitwise handler puts the combined byte into A and updates Z and N from it (R125). -/
theorem execute_bitwise {mn : Mnemonic} (h : mn ∈ [.AND, .ORA, .EOR]) {site : FetchSite} {o : Operand} {q : State} {m : Byte}
    (hm : operandByte o q = some m) :
    execute mn site o q = .next ((q.setA (bitwiseOf mn q.a m)).updateZN (bitwiseOf mn q.a m)) := by
  obtain rfl | rfl | rfl : mn = .AND ∨ mn = .ORA ∨ mn = .EOR := by simpa using h
  · exact and_next hm
  · exact ora_next hm
  · exact eor_next hm

/-- A bitwise instruction does that with its operand byte, and moves PC (R125). -/
theorem exec_bitwise {i : Instr} (h : i.mnemonic ∈ [.AND, .ORA, .EOR]) (s : State) :
    ∃ m pc, operandByte i.operand s.atOperand = some m ∧ exec i s =
      .next (((s.setA (bitwiseOf i.mnemonic s.a m)).updateZN (bitwiseOf i.mnemonic s.a m)).setPc pc) :=
  exec_of_reads (make := fun q m => (q.setA (bitwiseOf i.mnemonic q.a m)).updateZN (bitwiseOf i.mnemonic q.a m))
    (List.Sublist.subset (by decide) h) (fun _ _ _ => execute_bitwise h) s

end Sys2Proof.Machine

/-! ## The obligations -/

namespace Sys2Proof.Proofs

open Sys2Proof.Machine

/-- Settles O25: A is the combined byte, from which Z and N are updated. -/
theorem bitwiseInstructionsCombineIntoA : Obligations.BitwiseInstructionsCombineIntoA := by
  intro i s h
  obtain ⟨m, pc, hm, ht⟩ := exec_bitwise h s
  obtain ⟨hzn, hflags, hmem, hrest⟩ :=
    updateZN_frame (u := s.setA (bitwiseOf i.mnemonic s.a m)) rfl rfl ⟨rfl, rfl⟩ (bitwiseOf i.mnemonic s.a m)
  exact ⟨m, _, hm, ht, rfl, hzn, hflags, rfl, rfl, hmem, hrest⟩

end Sys2Proof.Proofs
end

section
/-! Proofs for spec/60_exceptions.md: where the two faults come from, what they leave, and what leaves `Faulted`. -/

namespace Sys2Proof.Machine

/-! ## Where a fault comes from -/

/-- Only a core in a run, or at its start, can fault: the instruction it runs does (42_execution_loop.md R92; log 1). -/
theorem stepWith_fault {runOne : State → Result} {s : State} {f : Fault} (h : stepWith runOne s = .fault f) :
    runOne (s.setStatus .running) = .fault f := by
  unfold stepWith at h
  split at h
  next hrun =>
    rw [← hrun]
    exact h
  next => exact h
  next => cases h
  next => cases h

theorem step_of_faulted {s : State} {r : FaultRecord} (h : s.status = .faulted r) :
    step s = .refused (.runFromFaulted r) := by
  simp [step, stepWith, h]

/-- No instruction of this hardware faults (40_addressing.md R76). -/
theorem exec_ne_fault (i : Instr) (s : State) (f : Fault) : exec i s ≠ .fault f := by
  obtain ⟨t, ht, -⟩ := exec_next i s
  simp [ht]

/-- So a fault comes from the fetch of a byte with no row (60_exceptions.md R130). -/
theorem unlisted_of_fetchAndRun_fault {s : State} {f : Fault} (h : fetchAndRun exec s = .fault f) :
    romLookup opcodeRom (s.read s.pc) = none := by
  obtain ⟨hnone, -⟩ | ⟨d, i, -, -, hdec⟩ := fetch_cases s
  · exact hnone
  · have hexec : exec i s = .fault f := by simpa [fetchAndRun, hdec] using h
    exact absurd hexec (exec_ne_fault i s f)

/-! ## What a fault leaves, for any ROM -/

theorem runHandler_fault {opcode : Byte} {n : Nat} {handler : FetchSite → State → Result} {s : State} {f : Fault} :
    runHandler opcode n handler s = .fault f ↔ handler ⟨opcode, s.pc⟩ s.atOperand = .fault f := by
  rw [runHandler]
  cases handler ⟨opcode, s.pc⟩ s.atOperand <;> simp

/-- Either fault is raised with nothing but PC written: at the fetch, or at the operand (60_exceptions.md R133; D21). -/
theorem romRunOne_fault {rom : List Descriptor} {s : State} {f : Fault} (h : romRunOne rom s = .fault f) :
    ∃ r pc, raise r (s.setPc pc) = .fault f := by
  unfold romRunOne at h
  split at h
  · exact ⟨_, s.pc, h⟩
  split at h
  · cases h
  · exact ⟨_, s.pc + 1, execute_fault (runHandler_fault.mp h)⟩

/-- A step's fault leaves the state before it as taking the fault makes it, whatever PC and the status were
(60_exceptions.md R132). -/
theorem romStep_fault {rom : List Descriptor} {s : State} {f : Fault} (h : romStep rom s = .fault f) :
    ∃ pc, f.left = ((s.setStatus .running).setPc pc).takeFault f.record := by
  obtain ⟨r, pc, hraise⟩ := romRunOne_fault (stepWith_fault h)
  obtain ⟨rfl, hleft⟩ := raise_fault hraise
  exact ⟨pc, hleft⟩

/-! ## A mode without the address asked for -/

section
variable {m : Mnemonic} {site : FetchSite} {s : State}

/-- In Implicit mode `EA` and `Operand` have nothing to answer, so a mnemonic that has no such form faults (40_addressing.md
R76, R77). -/
theorem execute_implicit (h : m ∉ AddrMode.implicit.users) :
    execute m site .implicit s = raise (.unsupportedAddressingMode site.opcode site.pc0 .implicit) s := by
  cases m with
  | TAX | TXA | TAY | TYA | INX | DEX | INY | DEY | BRK => exact absurd (by decide) h
  | LDA | LDX | LDY | STA | STX | STY | ADC | SBC | INC | DEC | ASL | LSR | ROL | ROR | AND | ORA | EOR => rfl

/-- In Accumulator mode `EA` has nothing to answer: the stores and the increments of memory fault (40_addressing.md R76). -/
theorem execute_accumulator (h : m ∈ [.STA, .STX, .STY, .INC, .DEC]) :
    execute m site .accumulator s = raise (.unsupportedAddressingMode site.opcode site.pc0 .accumulator) s := by
  obtain rfl | rfl | rfl | rfl | rfl : m = .STA ∨ m = .STX ∨ m = .STY ∨ m = .INC ∨ m = .DEC := by simpa using h
  all_goals rfl

end

/-- A row whose handler raises UnsupportedAddressingMode makes the step fault with the row's opcode and its address
(60_exceptions.md R131; D14). -/
theorem romRunOne_of_raise {rom : List Descriptor} {s : State} {d : Descriptor} (hd : romLookup rom (s.read s.pc) = some d)
    (hgo : d.family ≠ .halt)
    (h : ∀ site q, execute d.mnemonic site (fetchOperand d.mode q) q =
      raise (.unsupportedAddressingMode site.opcode site.pc0 d.mode) q) :
    ∃ left, romRunOne rom s = .fault (.unsupportedAddressingMode d.opcode s.pc d.mode left) := by
  simp only [romRunOne, hd, if_neg hgo]
  exact ⟨_, runHandler_fault.mpr (h _ _)⟩

/-! ## What leaves `Faulted` -/

theorem State.setReg8_status (s : State) (r : Reg8) (v : Byte) : (s.setReg8 r v).status = s.status := by
  cases r <;> rfl

/-- A load that answers changes memory alone (70_reset_and_hazards.md R146). -/
theorem load_eq_next {prog : List Byte} {s t : State} (h : load prog s = .next t) :
    t = s.setMem (loadedMemory prog s.mem) := by
  unfold load at h
  split at h
  · cases h
  · exact (betweenRuns_eq_next h).2

end Sys2Proof.Machine

/-! ## The obligations -/

namespace Sys2Proof.Proofs

open Sys2Proof.Machine

/-- Settles O43: a step faults at its fetch or not at all. -/
theorem unlistedOpcodeFaultsWithByteAndAddress : Obligations.UnlistedOpcodeFaultsWithByteAndAddress := by
  refine ⟨fun s hs hnone => ?_, fun s f h => ?_, exec_ne_fault⟩
  · rw [step_of_running_or_ready hs]
    exact ⟨_, fetchAndRun_of_unlisted (s := s.setStatus .running) hnone, rfl⟩
  · exact unlisted_of_fetchAndRun_fault (s := s.setStatus .running) (stepWith_fault h)

/-- Settles O44: a fault is raised before anything but PC is written. -/
theorem faultLeavesRegistersAndMemory : Obligations.FaultLeavesRegistersAndMemory := by
  intro rom s f h
  obtain ⟨pc, hleft⟩ := romStep_fault h
  rw [hleft]
  exact ⟨rfl, rfl, rfl, rfl, rfl, rfl, rfl⟩

/-- Settles O45: in either mode the handler finds no address. -/
theorem modeWithoutAddressFaults : Obligations.ModeWithoutAddressFaults := by
  intro rom s d hs hd hgo h
  rw [romStep_of_running hs]
  refine romRunOne_of_raise hd hgo fun site q => ?_
  obtain ⟨hmode, hm⟩ | ⟨hmode, hm⟩ := h <;> rw [hmode]
  · exact execute_implicit hm
  · exact execute_accumulator hm

/-- Settles O54: no run starts from Faulted, and of the host's operations only reset and the write of the whole state write the
status. -/
theorem faultedIsLeftByResetOrWholeStateWriteOnly : Obligations.FaultedIsLeftByResetOrWholeStateWriteOnly := by
  intro s r hs
  have hne : s.status ≠ .running := by simp [hs]
  refine ⟨fun t h => ?_, fun n t h => ?_, fun prog t h => ?_, fun a v t h => ?_, fun a v t h => ?_, fun x v t h => ?_,
    fun v t h => ?_, rfl, ⟨_, betweenRuns_next hne _, rfl⟩, fun w hw => ⟨_, hostWriteState_next hw hne, rfl⟩⟩
  · simp [step_of_faulted hs] at h
  · simpa [hs] using status_of_run_next h
  · obtain rfl := load_eq_next h
    exact hs
  · obtain ⟨-, rfl⟩ := betweenRuns_eq_next h
    exact hs
  · obtain ⟨-, rfl⟩ := betweenRuns_eq_next h
    exact hs
  · obtain ⟨-, rfl⟩ := betweenRuns_eq_next h
    exact (s.setReg8_status x v).trans hs
  · obtain ⟨-, rfl⟩ := betweenRuns_eq_next h
    exact hs

/-- Settles O39, in each of the two statuses. -/
theorem stoppedCoreStaysStopped : Obligations.StoppedCoreStaysStopped :=
  ⟨fun _ => step_of_halted, fun _ _ => step_of_faulted⟩

/-- Settles O53: the state left is the one written, but for the model's own counter. -/
theorem hostWritesTheWholeState : Obligations.HostWritesTheWholeState := by
  intro w s hw hs
  exact ⟨_, hostWriteState_next hw hs, rfl, rfl, rfl, rfl, rfl, rfl, fun _ => rfl, rfl, rfl⟩

end Sys2Proof.Proofs
end

section
/-! Proofs for spec/70_reset_and_hazards.md: load, reset and the canonical launch state, and what the host reads, writes and is
refused. -/

namespace Sys2Proof.Machine

/-! ## load -/

theorem load_of_fits {prog : List Byte} (h : prog.length ≤ 0x7FFC) (s : State) :
    load prog s = betweenRuns s (s.setMem (loadedMemory prog s.mem)) := if_neg (Nat.not_lt.mpr h)

theorem load_of_too_long {prog : List Byte} (h : 0x7FFC < prog.length) (s : State) :
    load prog s = .refused (.programTooLong prog.length) := if_pos h

/-- The image of a program that fits ends before the top of memory (R147). -/
theorem image_fits {prog : List Byte} (h : prog.length ≤ 0x7FFC) :
    Config.programOrigin.toNat + prog.length ≤ 65536 := by
  have horigin : Config.programOrigin.toNat = 0x8000 := rfl
  omega

section
variable {m : Memory} (hw : m.wf) {prog : List Byte} (hlen : prog.length ≤ 0x7FFC)
include hw

/-- The reset vector holds 0x8000, low byte first (70_reset_and_hazards.md R146). -/
theorem loadedMemory_vector : (loadedMemory prog m).read 0xFFFC = 0x00 ∧ (loadedMemory prog m).read 0xFFFD = 0x80 := by
  simp [loadedMemory_read hw]

include hlen

/-- The longest image ends below the reset vector (R147), so every byte of it stays as written (R146). -/
theorem loadedMemory_image {k : Nat} (hk : k < prog.length) :
    (loadedMemory prog m).read (0x8000 + BitVec.ofNat 16 k) = prog[k] := by
  have hlow : 0x8000 + BitVec.ofNat 16 k ≠ (0xFFFC : Addr) := by bv_omega
  have hhigh : 0x8000 + BitVec.ofNat 16 k ≠ (0xFFFD : Addr) := by bv_omega
  obtain ⟨himage, -⟩ := Memory.read_writeBytes hw Config.programOrigin prog (image_fits hlen)
  rw [loadedMemory_read hw, if_neg hhigh, if_neg hlow]
  exact himage k hk

/-- Outside the image only the reset vector is written (R146). -/
theorem loadedMemory_outside {b : Addr} (hb : b.toNat < 0x8000 ∨ 0x8000 + prog.length ≤ b.toNat) :
    (loadedMemory prog m).read b = if b = 0xFFFD then 0x80 else if b = 0xFFFC then 0x00 else m.read b := by
  obtain ⟨-, hrest⟩ := Memory.read_writeBytes hw Config.programOrigin prog (image_fits hlen)
  rw [loadedMemory_read hw, hrest b hb]

end

/-! ## The host's reads and writes -/

theorem State.observed8_setReg8 (s : State) (r : Reg8) (v : Byte) :
    (s.setReg8 r v).observed8 r = if r = .P then v &&& 0b11001111 else v := by cases r <;> rfl

theorem State.reg8_setReg8 (s : State) (r r' : Reg8) (v : Byte) :
    (s.setReg8 r v).reg8 r' = if r' = r then v else s.reg8 r' := by cases r <;> cases r' <;> rfl

theorem State.setReg8_pc (s : State) (r : Reg8) (v : Byte) : (s.setReg8 r v).pc = s.pc := by cases r <;> rfl

theorem State.setReg8_mem (s : State) (r : Reg8) (v : Byte) : (s.setReg8 r v).mem = s.mem := by cases r <;> rfl

/-- A mask hides what is put into a bit it lacks. -/
theorem withBit_and_of_masked (v : Byte) {mask : Byte} {k : Nat} (hk : k < 8) (hmask : bitOf mask k = false) (b : Bool) :
    withBit v k b &&& mask = v &&& mask := by
  refine BitVec.eq_of_getLsbD_eq fun j hj => ?_
  have hbit : (withBit v k b).getLsbD j = if k = j then b else v.getLsbD j := bitOf_withBit v hk hj b
  rw [BitVec.getLsbD_and, BitVec.getLsbD_and, hbit]
  by_cases hkj : k = j
  · subst hkj
    rw [show mask.getLsbD k = false from hmask, Bool.and_false, Bool.and_false]
  · rw [if_neg hkj]

/-- An observation of P does not see bits 4 and 5 (10_state.md R18). -/
theorem State.observedP_withBit (s : State) {k : Nat} (hk : k = 4 ∨ k = 5) (b : Bool) :
    (s.setP (withBit s.p k b)).observedP = s.observedP := by
  obtain rfl | rfl := hk <;> exact withBit_and_of_masked s.p (by decide) (by decide) b

theorem hostWriteState_of_not_running {w : State} (h : w.status ≠ .running) (s : State) :
    hostWriteState w s = betweenRuns s (w.setFreeCount s.freeCount) := if_pos (by simpa [State.notRunning] using h)

theorem hostWriteState_of_running {w : State} (h : w.status = .running) (s : State) :
    hostWriteState w s = .refused .hostWritesRunning := if_neg (by simp [State.notRunning, h])

end Sys2Proof.Machine

/-! ## The obligations -/

namespace Sys2Proof.Proofs

open Sys2Proof.Machine

/-- Settles O47: the image, then the vector above it. -/
theorem loadWritesImageAndResetVector : Obligations.LoadWritesImageAndResetVector := by
  intro prog s hw hs hlen
  obtain ⟨hlow, hhigh⟩ := loadedMemory_vector (prog := prog) hw
  refine ⟨_, (load_of_fits hlen s).trans (betweenRuns_next hs _), fun k hk => loadedMemory_image hw hlen hk, hlow, hhigh,
    fun a ha hne hne' => ?_, rfl⟩
  rw [State.read, State.setMem_mem, loadedMemory_outside hw hlen ha, if_neg hne', if_neg hne]
  rfl

/-- Settles O48: reset writes the registers, then PC from the vector. -/
theorem resetSetsRegistersAndEntersAtTheVector : Obligations.ResetSetsRegistersAndEntersAtTheVector := by
  intro s hs
  refine ⟨s.afterReset, betweenRuns_next hs _, rfl, rfl, rfl, ?_, ?_, ?_, ?_, ?_, ?_, joinBytes_toNat _ _, rfl, rfl, rfl⟩
  all_goals exact State.flag_afterReset s _

/-- Settles O50: load leaves the image and the vector over zeros, and reset enters at the vector. -/
theorem launchStateHoldsTheProgramAt8000 : Obligations.LaunchStateHoldsTheProgramAt8000 := by
  intro prog hlen
  have hw : construct.mem.wf := Memory.zeroed_wf
  obtain ⟨hlow, hhigh⟩ := loadedMemory_vector (prog := prog) hw
  have hs : construct.status ≠ .running := by decide
  refine ⟨construct.setMem (loadedMemory prog construct.mem), State.afterReset _,
    (load_of_fits hlen construct).trans (betweenRuns_next hs _), betweenRuns_next hs _, rfl, rfl, rfl, rfl, ?_, rfl,
    fun f => ?_, fun k hk => loadedMemory_image hw hlen hk, fun a ha => ?_⟩
  · exact congrArg₂ joinBytes hhigh hlow
  · rw [State.flag_afterReset, beq_iff_eq]
  · exact (loadedMemory_outside hw hlen ha).trans (by rw [show construct.mem.read a = 0x00 from rfl, ite_self])

/-- Settles O52: each write sets what the read of it answers, and of P the mask hides bits 4 and 5. -/
theorem hostReadsBackWhatItWrites : Obligations.HostReadsBackWhatItWrites := by
  intro s hw hs
  refine ⟨fun a v => ?_, fun a v => ?_, fun r v => ?_, fun k b hk => ?_, fun v => ?_⟩
  · refine ⟨s.write a v, betweenRuns_next hs _, ?_, fun b hb => Memory.read_write_other hw hb.symm v, rfl⟩
    exact (betweenRuns_next hs _).trans (congrArg _ (Memory.read_write_same hw a v))
  · refine ⟨s.setMem (s.mem.writeWord a v), betweenRuns_next hs _, ?_, fun b => Memory.read_writeWord_other hw a v, rfl⟩
    exact (betweenRuns_next hs _).trans (congrArg _ (Memory.readWord_writeWord hw a v))
  · have hstatus := s.setReg8_status r v
    refine ⟨s.setReg8 r v, betweenRuns_next hs _, ?_, fun r' hr => (s.reg8_setReg8 r r' v).trans (if_neg hr),
      s.setReg8_pc r v, s.setReg8_mem r v, hstatus⟩
    rw [hostReadReg, betweenRuns_next (hstatus ▸ hs), State.observed8_setReg8]
  · rw [hostReadReg, hostReadReg, betweenRuns_next hs, betweenRuns_next (s := s.setP (withBit s.p k b)) hs]
    exact congrArg _ (s.observedP_withBit hk b)
  · exact ⟨s.setPc v, betweenRuns_next hs _, betweenRuns_next hs _, rfl⟩

/-- Settles O51: inside a run each operation is refused; length and a Running state are looked at first. -/
theorem hostOperationsAreRefusedDuringARun : Obligations.HostOperationsAreRefusedDuringARun := by
  refine ⟨fun s hs => ?_, fun prog s hlen => load_of_too_long hlen s, fun w s hw => hostWriteState_of_running hw s⟩
  have refused {α : Type} (v : α) : betweenRuns s v = .refused .hostDuringRun := betweenRuns_refused hs v
  exact ⟨fun prog hlen => (load_of_fits hlen s).trans (refused _), refused _, fun n => by simp [run, beginRun, hs],
    fun a => ⟨refused _, refused _⟩, fun a v => refused _, fun a v => refused _, fun r => refused _, refused _,
    fun r v => refused _, fun v => refused _, fun w hw => (hostWriteState_of_not_running hw s).trans (refused _)⟩

end Sys2Proof.Proofs
end
